-- ==== Sys2Proof/Word.lean ====
section
/-!
DEFINITION. The widths of the block's values: host data words, step words, output latches
(00_scope.md R15, R16; 10_state.md R28; 30_encoding.md R70).
-/

namespace Sys2Proof

/-- A host data word: every register and every host transaction moves 16 bits (20_memory.md R52). -/
abbrev Word := BitVec 16

/-- A step word: the 24-bit encoding of one input to the block (30_encoding.md R70). -/
abbrev StepWord := BitVec 24

/-- A register index, or an event code, of a step word (30_encoding.md R73). -/
abbrev Index := BitVec 4

/-- The four digit-select lines (10_state.md R28). -/
abbrev DigitLines := BitVec 4

/-- The seven segment lines, and a segment pattern: bit `k` is segment `k` (10_state.md R28, R31). -/
abbrev SegLines := BitVec 7

end Sys2Proof
end

