-- ==== Sys2Proof/Config.lean ====
section
/-!
DEFINITION. The implementation parameters (00_scope.md R6 to R14), as a record, with the ranges the spec
gives them; and, for each parameter the spec leaves OPEN, a constant with no body: nothing can be proved
of its value beyond its range. Machine/Instance.lean puts the constants together into the instance the
machine runs with.
-/

namespace Sys2Proof

/-- Zero blanking (00_scope.md R8): `NONE` or `LEADING`. -/
inductive BlankPolicy where
  | none
  | leading
deriving DecidableEq, Repr, Inhabited

/-- The parameters of one instance. No step changes them (00_scope.md, section 4). `NUM_DIGITS = 4` and
`NUM_SEGMENTS = 7` are fixed and no parameters (R6): they are the bounds of the `Fin` types of State. -/
structure Params where
  /-- `SEG_TABLE` (R7, 10_state.md R31): the pattern of each decimal digit. -/
  segTable : Fin 10 → SegLines
  /-- `BLANK_POLICY` (R8). -/
  blankPolicy : BlankPolicy
  /-- `CNT_BITS` (R9): the width of `ccnt` and `lastPulseWidth`. -/
  cntBits : Nat
  /-- `CLOCK_FUDGE` (R10): the signed correction added to a measured pulse. -/
  clockFudge : Int
  /-- `PWM_BITS` (R11): the width of `pwmCmp`. -/
  pwmBits : Nat
  /-- `PWM_TOP` (R12): the largest value of `pwmCnt`. -/
  pwmTop : Nat
  /-- `BLOCK_BASE` (R13): the host byte address of register 0. -/
  blockBase : Nat
  /-- `TICK_PERIOD` (R14): no rule reads it. -/
  tickPeriod : Nat
  /-- `CTICK_PERIOD` (R14): no rule reads it. -/
  ctickPeriod : Nat
  /-- `PTICK_PERIOD` (R14): no rule reads it. -/
  ptickPeriod : Nat

/-- The ranges the spec gives the parameters (R7 to R12); entry 0 of the table is the source's. -/
structure Params.InRange (p : Params) : Prop where
  seg_zero : p.segTable 0 = 0b0111111#7
  cnt_pos : 1 ≤ p.cntBits
  cnt_le : p.cntBits ≤ 16
  fudge_lt : p.clockFudge.natAbs < 2 ^ p.cntBits
  pwm_ge : 8 ≤ p.pwmBits
  pwm_le : p.pwmBits ≤ 16
  top_pos : 1 ≤ p.pwmTop
  top_le : p.pwmTop ≤ 65535

/-- The identity string the spec takes for the block, for reference only (R1, D1). -/
def Config.identity : String := "avr-protoboard328-dpc"

/-- The default `SEG_TABLE` (10_state.md R31): the common "gfedcba" patterns. PRESUMED by the spec itself
(G1) for the entries 1 to 9; the machine's instance does not rest on them, the test vectors do. -/
def Config.defaultSegTable (d : Fin 10) : SegLines :=
  match d with
  | 0 => 0x3F#7
  | 1 => 0x06#7
  | 2 => 0x5B#7
  | 3 => 0x4F#7
  | 4 => 0x66#7
  | 5 => 0x6D#7
  | 6 => 0x7D#7
  | 7 => 0x07#7
  | 8 => 0x7F#7
  | 9 => 0x6F#7

/-- The parameters of the test vectors (95_test_vectors.md, Conventions), with `CLOCK_FUDGE = 0`. A vector
that says otherwise changes a field. -/
def Config.vectorParams : Params where
  segTable := Config.defaultSegTable
  blankPolicy := .none
  cntBits := 16
  clockFudge := 0
  pwmBits := 8
  pwmTop := 255
  blockBase := 0
  tickPeriod := 0
  ctickPeriod := 0
  ptickPeriod := 0

/-- OPEN (R7, 10_state.md R31): the instance's patterns of the digits 1 to 9; the value at 0 is not used
(notes/assumptions/3.md). -/
opaque Config.segPattern : Fin 10 → SegLines

/-- OPEN (R8): the instance's `BLANK_POLICY` (notes/assumptions/1.md). -/
opaque Config.blankPolicy : BlankPolicy

/-- OPEN (R10): `CLOCK_FUDGE + 65535`, so that the instance's `CLOCK_FUDGE` ranges over all integers of size
less than `2^16` and no others (notes/assumptions/1.md). -/
opaque Config.clockFudgeAbove : Fin 131071

/-- OPEN (R11): `PWM_BITS - 8` (notes/assumptions/1.md). -/
opaque Config.pwmBitsAbove : Fin 9

/-- OPEN (R12): `PWM_TOP - 1` (notes/assumptions/1.md). -/
opaque Config.pwmTopAbove : Fin 65535

/-- OPEN (R13): `BLOCK_BASE` (notes/assumptions/1.md). -/
opaque Config.blockBase : Nat

/-- OPEN (R14): `TICK_PERIOD` (notes/assumptions/1.md). -/
opaque Config.tickPeriod : Nat

/-- OPEN (R14): `CTICK_PERIOD` (notes/assumptions/1.md). -/
opaque Config.ctickPeriod : Nat

/-- OPEN (R14): `PTICK_PERIOD` (notes/assumptions/1.md). -/
opaque Config.ptickPeriod : Nat

end Sys2Proof
end

