-- ==== Sys2Proof/Machine/Instance.lean ====
section
/-!
DEFINITION. The instance the machine runs with: `CNT_BITS = 16` as the spec says for this hardware (00_scope.md R9),
entry 0 of `SEG_TABLE` as the source says (10_state.md R31), and every OPEN parameter a constant of Config with no body.
-/

namespace Sys2Proof.Machine

/-- The instance's `SEG_TABLE`: entry 0 is the source's `0111111`, the others are free (10_state.md R31;
notes/assumptions/3.md). -/
def hwSegTable (d : Fin 10) : SegLines :=
  if d = 0 then 0b0111111#7 else Config.segPattern d

/-- The parameters of this hardware (00_scope.md R6 to R14; notes/assumptions/1.md, 2.md, 3.md). -/
def hw : Params where
  segTable := hwSegTable
  blankPolicy := Config.blankPolicy
  cntBits := 16
  clockFudge := (Config.clockFudgeAbove.val : Int) - 65535
  pwmBits := Config.pwmBitsAbove.val + 8
  pwmTop := Config.pwmTopAbove.val + 1
  blockBase := Config.blockBase
  tickPeriod := Config.tickPeriod
  ctickPeriod := Config.ctickPeriod
  ptickPeriod := Config.ptickPeriod

end Sys2Proof.Machine
end

