-- ==== Sys2Proof/Syntax.lean ====
section
/-!
DEFINITION. The 17 operations of the block (30_encoding.md R74, R75; spec/opcode_table.json), the agents that produce
them (00_scope.md R5), and the reasons for which an input has no operation (30_encoding.md R76; 20_memory.md R52, R53).
-/

namespace Sys2Proof

/-- One operation of the block, one constructor per row of the opcode table. `d` is the 16-bit `D` field
(30_encoding.md R73); no other operand form exists. -/
inductive Instr where
  /-- `ENABLE` (40_display.md R100). -/
  | enable
  /-- `DISABLE` (R101). -/
  | disable
  /-- `RD.CTRL` (R102). -/
  | rdCtrl
  /-- `SETVAL #D` (R103). -/
  | setval (d : Word)
  /-- `RD.VALUE` (R104). -/
  | rdValue
  /-- `RD.DIGITS` (R105). -/
  | rdDigits
  /-- `RD.SCAN` (R106). -/
  | rdScan
  /-- `RD.CAPW` (41_capture.md R133). -/
  | rdCapw
  /-- `RD.CAPS` (R134). -/
  | rdCaps
  /-- `SETPWM #D`, with `D < 2^PWM_BITS` (42_pwm.md R150). -/
  | setpwm (d : Word)
  /-- `RD.PWMC` (R151). -/
  | rdPwmc
  /-- `TICK` (40_display.md R110). -/
  | tick
  /-- `CTICK` (41_capture.md R132). -/
  | ctick
  /-- `PTICK` (42_pwm.md R152). -/
  | ptick
  /-- `EDGE.R` (41_capture.md R130). -/
  | edgeR
  /-- `EDGE.F` (R131). -/
  | edgeF
  /-- `RESET` (70_reset_and_hazards.md R230). -/
  | reset
deriving DecidableEq, Repr

/-- The six agents (00_scope.md R5). -/
inductive Agent where
  | host
  | displayTickSource
  | captureCounterClock
  | pwmCounterClock
  | captureInputLine
  | resetAgent
deriving DecidableEq, Repr

/-- Why a step word is reserved: the reasons of the decoder of 30_encoding.md R76. -/
inductive Reserved where
  /-- CTRL write with reserved bits set. -/
  | ctrlReservedBits
  /-- PWMC write with reserved bits set. -/
  | pwmcReservedBits
  /-- Write to a read-only register. -/
  | writeReadOnly
  /-- Write to a reserved register. -/
  | writeReservedRegister
  /-- Read with a nonzero data field. -/
  | readNonzeroData
  /-- Read of a reserved register. -/
  | readReservedRegister
  /-- Event with `W` set. -/
  | eventWithW
  /-- Reserved event code or operand. -/
  | reservedEvent
  /-- Reserved class. -/
  | reservedClass
deriving DecidableEq, Repr

/-- Why a host access has no step word (20_memory.md R52, R53; 93_implementation_defined.md V11). -/
inductive NoStepWord where
  /-- An access of another width than 16 bits (R52). -/
  | width
  /-- An access outside the 32-byte window (R50, V11). -/
  | outsideWindow
  /-- An access at an odd offset (R53). -/
  | misaligned
deriving DecidableEq, Repr

end Sys2Proof
end

