-- ==== Sys2Proof/Machine/Operands.lean ====
section
/-!
DEFINITION. The fields of a step word and the words built from fields (30_encoding.md R70 to R72), the two operand
computations (R73: SETPWM's range, SETVAL's clamp and decimal split), and the one-bit masks of the display lines.
-/

namespace Sys2Proof.Machine

/-- `W`, bit 23 (30_encoding.md R70). -/
def wField (w : StepWord) : Bool := w.getLsbD 23

/-- `CLS`, bits 22:20 (R70). -/
def clsField (w : StepWord) : BitVec 3 := w.extractLsb' 20 3

/-- `A` or `E`, bits 19:16 (R70). -/
def aField (w : StepWord) : Index := w.extractLsb' 16 4

/-- `D`, bits 15:0 (R70). -/
def dField (w : StepWord) : Word := w.extractLsb' 0 16

/-- The step word of `HostWrite(A, D)` (R71). -/
def hostWriteWord (a : Index) (d : Word) : StepWord := 0b1#1 ++ 0b000#3 ++ a ++ d

/-- The step word of `HostRead(A)` (R71). -/
def hostReadWord (a : Index) : StepWord := 0b0#1 ++ 0b000#3 ++ a ++ 0x0000#16

/-- The step word of the event with code `E` and operand `D` (R72). -/
def eventWord (e : Index) (d : Word) : StepWord := 0b0#1 ++ 0b001#3 ++ e ++ d

/-- `D < 2^PWM_BITS` (R73, R76). `PWM_BITS` is at least 8 (00_scope.md R11), so a value below 256 fits whatever
`PWM_BITS` is; saying that first lets a small value be decided though `PWM_BITS` is free (notes/assumptions/8.md). -/
def fitsPwm (p : Params) (d : Word) : Bool :=
  decide (d.toNat < 256) || decide (d.toNat < 2 ^ p.pwmBits)

/-- The value SETVAL stores: `min(D, 9999)` (40_display.md R103). -/
def clampValue (d : Word) : Nat := min d.toNat 9999

/-- `(v div 10^i) mod 10` (40_display.md R103). -/
def decimalDigit (v i : Nat) : Fin 10 := ⟨v / 10 ^ i % 10, Nat.mod_lt _ (by decide)⟩

/-- `onehot4(i)` (00_scope.md R15). -/
def onehot4 (i : Fin 4) : DigitLines := 1#4 <<< i.val

/-- `1 << k`, the mask of the strobed segment (40_display.md R110). -/
def segMask (k : Fin 7) : SegLines := 1#7 <<< k.val

end Sys2Proof.Machine
end

