-- ==== Sys2Proof/WellFormed.lean ====
section
/-!
DEFINITION. Which operations exist on an instance: every one, but a SETPWM whose operand does not fit the compare
register (30_encoding.md R73, R76).
-/

namespace Sys2Proof

/-- `i` is an operation of an instance with parameters `p`. -/
def Instr.wellFormed (p : Params) (i : Instr) : Bool :=
  match i with
  | .setpwm d => decide (d.toNat < 2 ^ p.pwmBits)
  | .enable | .disable | .rdCtrl | .setval _ | .rdValue | .rdDigits | .rdScan | .rdCapw | .rdCaps | .rdPwmc
  | .tick | .ctick | .ptick | .edgeR | .edgeF | .reset => true

end Sys2Proof
end

