-- ==== Sys2Proof/Decode.lean ====
section
/-!
DEFINITION. The decoder, total on all `2^24` step words (30_encoding.md R76), and the encoder written from the opcode
maps R74 and R75.
-/

namespace Sys2Proof

open Machine

/-- Host writes, `CLS = 0b000` and `W = 1` (30_encoding.md R76). -/
def decodeWrite (p : Params) (a : Index) (d : Word) : Except Reserved Instr :=
  match a.toNat with
  | 0 =>
    if d = 0x0001#16 then .ok .enable
    else if d = 0x0000#16 then .ok .disable
    else .error .ctrlReservedBits
  | 1 => .ok (.setval d)
  | 2 | 3 | 4 | 5 => .error .writeReadOnly
  | 6 => if fitsPwm p d then .ok (.setpwm d) else .error .pwmcReservedBits
  | _ => .error .writeReservedRegister

/-- Host reads, `CLS = 0b000` and `W = 0` (R76). -/
def decodeRead (a : Index) (d : Word) : Except Reserved Instr :=
  if d ≠ 0x0000#16 then .error .readNonzeroData
  else
    match a.toNat with
    | 0 => .ok .rdCtrl
    | 1 => .ok .rdValue
    | 2 => .ok .rdDigits
    | 3 => .ok .rdScan
    | 4 => .ok .rdCapw
    | 5 => .ok .rdCaps
    | 6 => .ok .rdPwmc
    | _ => .error .readReservedRegister

/-- Events, `CLS = 0b001`, with code `e` in the `A` field (R76). -/
def decodeEvent (w : Bool) (e : Index) (d : Word) : Except Reserved Instr :=
  if w then .error .eventWithW
  else
    match e.toNat, d.toNat with
    | 0, 0 => .ok .tick
    | 1, 0 => .ok .ctick
    | 2, 0 => .ok .ptick
    | 3, 0 => .ok .edgeR
    | 3, 1 => .ok .edgeF
    | 4, 0 => .ok .reset
    | _, _ => .error .reservedEvent

/-- The decoder (R76): the operation of a step word, or why the word is reserved. -/
def decode (p : Params) (w : StepWord) : Except Reserved Instr :=
  match (clsField w).toNat with
  | 0 => if wField w then decodeWrite p (aField w) (dField w) else decodeRead (aField w) (dField w)
  | 1 => decodeEvent (wField w) (aField w) (dField w)
  | _ => .error .reservedClass

/-- The step word of an operation (R74, R75). -/
def encode (i : Instr) : StepWord :=
  match i with
  | .enable => hostWriteWord 0 1
  | .disable => hostWriteWord 0 0
  | .rdCtrl => hostReadWord 0
  | .setval d => hostWriteWord 1 d
  | .rdValue => hostReadWord 1
  | .rdDigits => hostReadWord 2
  | .rdScan => hostReadWord 3
  | .rdCapw => hostReadWord 4
  | .rdCaps => hostReadWord 5
  | .setpwm d => hostWriteWord 6 d
  | .rdPwmc => hostReadWord 6
  | .tick => eventWord 0 0
  | .ctick => eventWord 1 0
  | .ptick => eventWord 2 0
  | .edgeR => eventWord 3 0
  | .edgeF => eventWord 3 1
  | .reset => eventWord 4 0

/-- The instruction the decoder reads from the table's word `w` of `nbits` bits; bits from `nbits` on are 0. A number
that is no 24-bit word is no step word (30_encoding.md R70). -/
def decodeTableWord (nbits w : Nat) : Option Instr :=
  if w % 2 ^ nbits < 2 ^ 24 then
    match decode hw (BitVec.ofNat 24 (w % 2 ^ nbits)) with
    | .ok i => some i
    | .error _ => none
  else none

end Sys2Proof
end

