-- ==== Sys2Proof/Machine/State.lean ====
section
/-!
DEFINITION. The state of the block (10_state.md R22 to R36) as plain data, with two fields of the model's own (the step
words still to arrive and the result of the last read), the reasons a step can stop, and the state after reset (R49).
-/

namespace Sys2Proof.Machine

/-- The polarity the capture unit is armed for (10_state.md R32). -/
inductive EdgePhase where
  | armedRising
  | armedFalling
deriving DecidableEq, Repr

/-- `digits[0..3]`, units first (10_state.md R22). -/
structure Digits where
  d0 : Fin 10
  d1 : Fin 10
  d2 : Fin 10
  d3 : Fin 10
deriving DecidableEq, Repr

/-- The whole machine. `PWMOUT` is not stored (R37): Machine/Flags.lean computes it. The register map (R40) is a view of
these fields: Machine/Ops.lean computes it. -/
@[ext]
structure State where
  /-- `digits` (R22). -/
  digits : Digits
  /-- `displayedValue` (R23). -/
  displayedValue : Nat
  /-- `enabled` (R25). -/
  enabled : Bool
  /-- `activeDigit` (R26). -/
  activeDigit : Fin 4
  /-- `activeSegment` (R27). -/
  activeSegment : Fin 7
  /-- `DIG` (R28). -/
  dig : DigitLines
  /-- `SEG` (R28). -/
  seg : SegLines
  /-- `edgePhase` (R32). -/
  edgePhase : EdgePhase
  /-- `lastPulseWidth` (R33), a `CNT_BITS`-bit value. -/
  lastPulseWidth : Word
  /-- `ccnt` (R34), a `CNT_BITS`-bit value. -/
  ccnt : Word
  /-- `pwmCmp` (R35), a `PWM_BITS`-bit value. -/
  pwmCmp : Word
  /-- `pwmCnt` (R36), at most `PWM_TOP`. -/
  pwmCnt : Nat
  /-- MODEL'S OWN. The step words still to arrive, next first, in the total order of 20_memory.md R59
  (notes/assumptions/4.md). -/
  inputs : List StepWord
  /-- MODEL'S OWN. The result of the last step if it was a host read (00_scope.md R17; notes/assumptions/6.md). -/
  readResult : Option Word
deriving DecidableEq, Repr

/-- The state after power-up and after RESET (10_state.md R49; 70_reset_and_hazards.md R231). The two fields of the
model's own are empty: DESIGN CHOICE (notes/assumptions/4.md, 6.md). -/
def State.reset : State where
  digits := ⟨0, 0, 0, 0⟩
  displayedValue := 0
  enabled := false
  activeDigit := 0
  activeSegment := 0
  dig := 0b0000#4
  seg := 0b0000000#7
  edgePhase := .armedRising
  lastPulseWidth := 0
  ccnt := 0
  pwmCmp := 0
  pwmCnt := 0
  inputs := []
  readResult := none

/-- The block raises no exception and nothing can stop it (60_exceptions.md R200; 93_implementation_defined.md,
treatments `fault` and `stuck`: not used), so there is no fault: the type is empty (notes/assumptions/11.md). -/
inductive Fault where
deriving DecidableEq, Repr

/-- Why a step is refused. Every refusal is safe: the spec gives the input no meaning and says a model must refuse it. -/
inductive Refusal where
  /-- Raised by an arm of `exec` that has no meaning yet. No arm is left so. Safe. -/
  | notModelled (mnemonic : String)
  /-- Raised by `step` on a reserved step word, and by `execSetpwm` on an operand that no word of the operation can
  carry (30_encoding.md R78). Safe. -/
  | reservedWord (reason : Reserved)
  /-- Raised by `deliverAccess` on a host access that has no step word (20_memory.md R52, R53; V11). Safe. -/
  | noStepWord (reason : NoStepWord)
deriving DecidableEq, Repr

end Sys2Proof.Machine
end

