-- ==== Sys2Proof/Machine/Flags.lean ====
section
/-!
DEFINITION. The two one-bit status values of the block, `enabled` and `edgePhase`, how each is written and read
(10_state.md R38), and the output `PWMOUT` (R37). The block has no condition codes.
-/

namespace Sys2Proof.Machine

/-- Write `enabled` and nothing else (40_display.md R100, R101). -/
def setEnabled (b : Bool) (s : State) : State := { s with enabled := b }

/-- `enabled` as CTRL bit 0 shows it (10_state.md R41). -/
def enabledBit (s : State) : Word := if s.enabled then 1 else 0

/-- An accepted edge arms the other polarity and zeroes the counter (41_capture.md R130, R131). -/
def acceptEdge (next : EdgePhase) (s : State) : State := { s with edgePhase := next, ccnt := 0 }

/-- `edgePhase` as CAPS bit 0 shows it: `ArmedRising = 0`, `ArmedFalling = 1` (10_state.md R46). -/
def edgePhaseBit (s : State) : Word :=
  match s.edgePhase with
  | .armedRising => 0
  | .armedFalling => 1

/-- `PWMOUT`, the PWM output pin: 1 exactly when `pwmCnt < pwmCmp`, both unsigned (10_state.md R37). -/
def pwmOut (s : State) : Bool := decide (s.pwmCnt < s.pwmCmp.toNat)

end Sys2Proof.Machine
end

