-- ==== Sys2Proof/Machine/Ops.lean ====
section
/-!
DEFINITION. The shared operations over the state: taking the next step word, answering a read, the register map, the
display's stored value and strobe, the two counters, the measured width, reset. Each takes the instance's parameters as
an argument where it depends on them, so that what is proved of it holds for every instance.

There is no operation that takes an exception and none that returns from one: the block raises none, has no vector and
saves nothing (60_exceptions.md R200, R206, R207).
-/

namespace Sys2Proof.Machine

/-! ### Inputs and read results -/

/-- The next step word and the state without it; `none` when no input is waiting (20_memory.md R59). -/
def fetch (s : State) : Option (StepWord × State) :=
  match s.inputs with
  | [] => none
  | w :: rest => some (w, { s with inputs := rest })

/-- Put a step word first among those to arrive. -/
def pushInput (w : StepWord) (s : State) : State := { s with inputs := w :: s.inputs }

/-- A host read returns `v` and changes nothing else (00_scope.md R17; 20_memory.md R56). -/
def respond (v : Word) (s : State) : State := { s with readResult := some v }

/-- A step that is no host read returns nothing (00_scope.md R17; 70_reset_and_hazards.md R235). -/
def quiet (s : State) : State := { s with readResult := none }

/-! ### Digits -/

/-- `digits[i]` (10_state.md R22). -/
def digit (ds : Digits) (i : Fin 4) : Fin 10 :=
  match i with
  | 0 => ds.d0
  | 1 => ds.d1
  | 2 => ds.d2
  | 3 => ds.d3

/-- `digits[i] = (v div 10^i) mod 10` for `i` in 0..3 (40_display.md R103). -/
def digitsOf (v : Nat) : Digits :=
  ⟨decimalDigit v 0, decimalDigit v 1, decimalDigit v 2, decimalDigit v 3⟩

/-- Store a value and its digits in one step (40_display.md R103; 20_memory.md R55). -/
def storeValue (v : Nat) (s : State) : State := { s with digits := digitsOf v, displayedValue := v }

/-! ### The register map (10_state.md R40) -/

/-- CTRL: bit 0 is `enabled`, bits 15:1 read 0 (R41). -/
def regCtrl (s : State) : Word := enabledBit s

/-- VALUE: `zext_16(displayedValue)` (R42). -/
def regValue (s : State) : Word := BitVec.ofNat 16 s.displayedValue

/-- One nibble of DIGITS (R43). -/
def nibble (d : Fin 10) : BitVec 4 := BitVec.ofNat 4 d.val

/-- DIGITS: `{digits[3], digits[2], digits[1], digits[0]}`, each 4 bits (R43). -/
def regDigits (s : State) : Word :=
  nibble s.digits.d3 ++ nibble s.digits.d2 ++ nibble s.digits.d1 ++ nibble s.digits.d0

/-- SCAN: `zext_16({activeDigit[1:0], 0b0, activeSegment[2:0]})` (R44). -/
def regScan (s : State) : Word :=
  (BitVec.ofNat 2 s.activeDigit.val ++ 0b0#1 ++ BitVec.ofNat 3 s.activeSegment.val).setWidth 16

/-- CAPW: `zext_16(lastPulseWidth)` (R45). -/
def regCapw (s : State) : Word := s.lastPulseWidth

/-- CAPS: bit 0 is `edgePhase`, bits 15:1 read 0 (R46). -/
def regCaps (s : State) : Word := edgePhaseBit s

/-- PWMC: `zext_16(pwmCmp)` (R47). -/
def regPwmc (s : State) : Word := s.pwmCmp

/-- `R[A]`, the register map whole: 0 to 6 are defined, 7 to 15 are reserved (R40, R48). -/
def regRead (a : Index) (s : State) : Option Word :=
  match a.toNat with
  | 0 => some (regCtrl s)
  | 1 => some (regValue s)
  | 2 => some (regDigits s)
  | 3 => some (regScan s)
  | 4 => some (regCapw s)
  | 5 => some (regCaps s)
  | 6 => some (regPwmc s)
  | _ => none

/-! ### The display's strobe (40_display.md R110 to R112) -/

/-- Every digit from position `i` up is zero. -/
def zeroFrom (ds : Digits) (i : Fin 4) : Bool :=
  [0, 1, 2, 3].all fun j : Fin 4 => decide (j < i) || decide (digit ds j = 0)

/-- Zero blanking of position `i` (R112). -/
def blank (p : Params) (s : State) (i : Fin 4) : Bool :=
  decide (1 ≤ i.val) && zeroFrom s.digits i && decide (p.blankPolicy = .leading)

/-- The pattern shown at position `i` (R111). -/
def shown (p : Params) (s : State) (i : Fin 4) : SegLines :=
  if blank p s i then 0b0000000#7 else p.segTable (digit s.digits i)

/-- Sub-step (a) of a tick: deactivate every digit-select line (R110). -/
def strobeA (s : State) : State := { s with dig := 0b0000#4 }

/-- Sub-step (b): activate only the line of `activeDigit` (R110). -/
def strobeB (s : State) : State := { s with dig := onehot4 s.activeDigit }

/-- Sub-step (c): drive the segment lines, masked to `activeSegment` (R110). -/
def strobeC (p : Params) (s : State) : State :=
  { s with seg := shown p s s.activeDigit &&& segMask s.activeSegment }

/-- Sub-step (d): advance the scan position (R110). -/
def advanceScan (s : State) : State :=
  if s.activeSegment = 6 then { s with activeSegment := 0, activeDigit := s.activeDigit + 1 }
  else { s with activeSegment := s.activeSegment + 1 }

/-- One refresh tick (R110): nothing when disabled; else (a) to (d) in order, as one step. -/
def refreshTick (p : Params) (s : State) : State :=
  if s.enabled then advanceScan (strobeC p (strobeB (strobeA s))) else s

/-- Force the outputs inactive (40_display.md R101). -/
def blankOutputs (s : State) : State := { s with dig := 0b0000#4, seg := 0b0000000#7 }

/-! ### The capture counter and the measured width (41_capture.md R130 to R132) -/

/-- `(ccnt + 1) mod 2^CNT_BITS` (R132). -/
def ccntInc (p : Params) (c : Word) : Word := BitVec.ofNat 16 ((c.toNat + 1) % 2 ^ p.cntBits)

/-- `(ccnt + CLOCK_FUDGE) mod 2^CNT_BITS`, the sum over the integers and the non-negative remainder (R131). -/
def pulseWidth (p : Params) (c : Word) : Word :=
  BitVec.ofNat 16 (((c.toNat : Int) + p.clockFudge) % (2 : Int) ^ p.cntBits).toNat

/-- One count of the capture counter, in both phases (R132). -/
def countCapture (p : Params) (s : State) : State := { s with ccnt := ccntInc p s.ccnt }

/-- A rising edge (R130): the pulse starts if the unit is armed for it. -/
def risingEdge (s : State) : State :=
  match s.edgePhase with
  | .armedRising => acceptEdge .armedFalling s
  | .armedFalling => s

/-- A falling edge (R131): the pulse ends and is measured if the unit is armed for it. -/
def fallingEdge (p : Params) (s : State) : State :=
  match s.edgePhase with
  | .armedRising => s
  | .armedFalling => { acceptEdge .armedRising s with lastPulseWidth := pulseWidth p s.ccnt }

/-! ### The PWM channel (42_pwm.md R150, R152) -/

/-- Write the compare register; it takes effect at once (R150). -/
def writeCompare (d : Word) (s : State) : State := { s with pwmCmp := d }

/-- The count after `n`: 0 at `PWM_TOP`, else `n + 1` (R152). -/
def pwmCntInc (p : Params) (n : Nat) : Nat := if n = p.pwmTop then 0 else n + 1

/-- One count of the channel's counter (R152). -/
def countPwm (p : Params) (s : State) : State := { s with pwmCnt := pwmCntInc p s.pwmCnt }

/-! ### Reset (70_reset_and_hazards.md R230) -/

/-- Every field of the block at its value of 10_state.md R49. -/
def resetBlock (s : State) : State :=
  { s with
    digits := ⟨0, 0, 0, 0⟩
    displayedValue := 0
    enabled := false
    activeDigit := 0
    activeSegment := 0
    dig := 0b0000#4
    seg := 0b0000000#7
    edgePhase := .armedRising
    lastPulseWidth := 0
    ccnt := 0
    pwmCmp := 0
    pwmCnt := 0 }

end Sys2Proof.Machine
end

