-- ==== Sys2Proof/Machine/Capture.lean ====
section
/-!
DEFINITION. The operations of the Pulse Capture Engine (41_capture.md R130 to R134).
-/

namespace Sys2Proof.Machine

/-- `EDGE.R` (41_capture.md R130). -/
def execEdgeR (s : State) : Host.Outcome State Fault Refusal := .next (quiet (risingEdge s))

/-- `EDGE.F` (R131). -/
def execEdgeF (s : State) : Host.Outcome State Fault Refusal := .next (quiet (fallingEdge hw s))

/-- `CTICK` (R132). -/
def execCtick (s : State) : Host.Outcome State Fault Refusal := .next (quiet (countCapture hw s))

/-- `RD.CAPW` (R133). -/
def execRdCapw (s : State) : Host.Outcome State Fault Refusal := .next (respond (regCapw s) s)

/-- `RD.CAPS` (R134). -/
def execRdCaps (s : State) : Host.Outcome State Fault Refusal := .next (respond (regCaps s) s)

end Sys2Proof.Machine
end

