-- ==== Sys2Proof/Machine/Display.lean ====
section
/-!
DEFINITION. The operations of the Multiplexed Display Engine (40_display.md R100 to R112).
-/

namespace Sys2Proof.Machine

/-- `ENABLE` (40_display.md R100). -/
def execEnable (s : State) : Host.Outcome State Fault Refusal := .next (quiet (setEnabled true s))

/-- `DISABLE` (R101). -/
def execDisable (s : State) : Host.Outcome State Fault Refusal := .next (quiet (blankOutputs (setEnabled false s)))

/-- `RD.CTRL` (R102). -/
def execRdCtrl (s : State) : Host.Outcome State Fault Refusal := .next (respond (regCtrl s) s)

/-- `SETVAL #D` (R103). -/
def execSetval (d : Word) (s : State) : Host.Outcome State Fault Refusal :=
  .next (quiet (storeValue (clampValue d) s))

/-- `RD.VALUE` (R104). -/
def execRdValue (s : State) : Host.Outcome State Fault Refusal := .next (respond (regValue s) s)

/-- `RD.DIGITS` (R105). -/
def execRdDigits (s : State) : Host.Outcome State Fault Refusal := .next (respond (regDigits s) s)

/-- `RD.SCAN` (R106). -/
def execRdScan (s : State) : Host.Outcome State Fault Refusal := .next (respond (regScan s) s)

/-- `TICK` (R110). -/
def execTick (s : State) : Host.Outcome State Fault Refusal := .next (quiet (refreshTick hw s))

end Sys2Proof.Machine
end

