-- ==== Sys2Proof/Machine/Pwm.lean ====
section
/-!
DEFINITION. The operations of the PWM Output Driver (42_pwm.md R150 to R152).
-/

namespace Sys2Proof.Machine

/-- `SETPWM #D` (42_pwm.md R150). An operand with `D >= 2^PWM_BITS` is no operand of the operation: the write that would
carry it is reserved and is refused (R150; 30_encoding.md R78; notes/assumptions/7.md). -/
def execSetpwm (d : Word) (s : State) : Host.Outcome State Fault Refusal :=
  if fitsPwm hw d then .next (quiet (writeCompare d s)) else .refused (.reservedWord .pwmcReservedBits)

/-- `RD.PWMC` (R151). -/
def execRdPwmc (s : State) : Host.Outcome State Fault Refusal := .next (respond (regPwmc s) s)

/-- `PTICK` (R152). -/
def execPtick (s : State) : Host.Outcome State Fault Refusal := .next (quiet (countPwm hw s))

end Sys2Proof.Machine
end

