-- ==== Sys2Proof/Machine/System.lean ====
section
/-!
DEFINITION. Reset as an operation (70_reset_and_hazards.md R230).
-/

namespace Sys2Proof.Machine

/-- `RESET` (70_reset_and_hazards.md R230). The step words still to arrive are other agents' and stay. -/
def execReset (s : State) : Host.Outcome State Fault Refusal := .next (quiet (resetBlock s))

end Sys2Proof.Machine
end

