-- ==== Sys2Proof/Machine/Dispatch.lean ====
section
/-!
DEFINITION. The meaning of each operation, one arm per constructor of Instr.
-/

namespace Sys2Proof.Machine

def exec (i : Instr) (s : State) : Host.Outcome State Fault Refusal :=
  match i with
  | .enable => Sys2Proof.Machine.execEnable s
  | .disable => Sys2Proof.Machine.execDisable s
  | .rdCtrl => Sys2Proof.Machine.execRdCtrl s
  | .setval d => Sys2Proof.Machine.execSetval d s
  | .rdValue => Sys2Proof.Machine.execRdValue s
  | .rdDigits => Sys2Proof.Machine.execRdDigits s
  | .rdScan => Sys2Proof.Machine.execRdScan s
  | .rdCapw => Sys2Proof.Machine.execRdCapw s
  | .rdCaps => Sys2Proof.Machine.execRdCaps s
  | .setpwm d => Sys2Proof.Machine.execSetpwm d s
  | .rdPwmc => Sys2Proof.Machine.execRdPwmc s
  | .tick => Sys2Proof.Machine.execTick s
  | .ctick => Sys2Proof.Machine.execCtick s
  | .ptick => Sys2Proof.Machine.execPtick s
  | .edgeR => Sys2Proof.Machine.execEdgeR s
  | .edgeF => Sys2Proof.Machine.execEdgeF s
  | .reset => Sys2Proof.Machine.execReset s

end Sys2Proof.Machine
end

