-- ==== Sys2Proof/Machine/Step.lean ====
section
/-!
DEFINITION. One step of the machine: the next step word is taken, decoded and run (00_scope.md R17; 20_memory.md R55,
R59). The block fetches no program (10_state.md R21): its inputs come from outside, and `withFetchWord` stands for the
arrival of one (notes/assumptions/4.md).
-/

namespace Sys2Proof.Machine

/-- One step word performed on a state: its operation, or a refusal when the word is reserved (30_encoding.md R76, R78). -/
def runWord (w : StepWord) (s : State) : Host.Outcome State Fault Refusal :=
  match decode hw w with
  | .ok i => exec i s
  | .error r => .refused (.reservedWord r)

/-- One step. With no input waiting no step of the block takes place, and the state stays as it is: DESIGN CHOICE
(notes/assumptions/5.md). -/
def step (s : State) : Host.Outcome State Fault Refusal :=
  match fetch s with
  | none => .next s
  | some (w, t) => runWord w t

/-- The table's word `w` of `nbits` bits arrives as the next input. -/
def State.withFetchWord (s : State) (nbits w : Nat) : State :=
  pushInput (BitVec.ofNat 24 (w % 2 ^ nbits)) s

end Sys2Proof.Machine
end

