-- ==== Sys2Proof/Machine/Run.lean ====
section
/-!
DEFINITION. Runs: finite sequences of steps (00_scope.md R17; 70_reset_and_hazards.md R236), with the read results and the
refused mark that R17 and 30_encoding.md R78 give a run and not the block; and the agents whose steps a run interleaves
(00_scope.md R5; 60_exceptions.md R205).
-/

namespace Sys2Proof.Machine

/-- The agent that produces an operation (00_scope.md R5; 30_encoding.md R72). -/
def agentOf (i : Instr) : Agent :=
  match i with
  | .enable | .disable | .rdCtrl | .setval _ | .rdValue | .rdDigits | .rdScan | .rdCapw | .rdCaps | .setpwm _
  | .rdPwmc => .host
  | .tick => .displayTickSource
  | .ctick => .captureCounterClock
  | .ptick => .pwmCounterClock
  | .edgeR | .edgeF => .captureInputLine
  | .reset => .resetAgent

/-- The host's steps that are reads (30_encoding.md R74). -/
def isRead (i : Instr) : Bool :=
  match i with
  | .rdCtrl | .rdValue | .rdDigits | .rdScan | .rdCapw | .rdCaps | .rdPwmc => true
  | .enable | .disable | .setval _ | .setpwm _ | .tick | .ctick | .ptick | .edgeR | .edgeF | .reset => false

/-- The operations that touch the display engine's state (40_display.md, 70_reset_and_hazards.md R230). -/
def affectsDisplay (i : Instr) : Bool :=
  match i with
  | .enable | .disable | .setval _ | .tick | .reset => true
  | .rdCtrl | .rdValue | .rdDigits | .rdScan | .rdCapw | .rdCaps | .setpwm _ | .rdPwmc | .ctick | .ptick | .edgeR
  | .edgeF => false

/-- The operations that touch the capture engine's state (41_capture.md, 70_reset_and_hazards.md R230). -/
def affectsCapture (i : Instr) : Bool :=
  match i with
  | .ctick | .edgeR | .edgeF | .reset => true
  | .enable | .disable | .rdCtrl | .setval _ | .rdValue | .rdDigits | .rdScan | .rdCapw | .rdCaps | .setpwm _ | .rdPwmc
  | .tick | .ptick => false

/-- The operations that touch the PWM driver's state (42_pwm.md, 70_reset_and_hazards.md R230). -/
def affectsPwm (i : Instr) : Bool :=
  match i with
  | .setpwm _ | .ptick | .reset => true
  | .enable | .disable | .rdCtrl | .setval _ | .rdValue | .rdDigits | .rdScan | .rdCapw | .rdCaps | .rdPwmc | .tick
  | .ctick | .edgeR | .edgeF => false

/-- `ops` is an interleaving of the agents' own sequences of steps: each agent's steps come in its order, and nothing is
said of the order between agents (60_exceptions.md R205). -/
def Interleaves (stream : Agent → List Instr) (ops : List Instr) : Prop :=
  ∀ a, ops.filter (fun i => decide (agentOf i = a)) = stream a

/-- `detected` is what the block sees of `physical`: any edge of the input line may have no step, every other step has
its own (41_capture.md R136; 93_implementation_defined.md U11). -/
def LosesOnlyEdges (physical detected : List Instr) : Prop :=
  detected.Sublist physical ∧
    detected.filter (fun i => decide (agentOf i ≠ .captureInputLine)) =
      physical.filter (fun i => decide (agentOf i ≠ .captureInputLine))

/-- The spec's own part of the state: the twelve fields of 10_state.md, the two fields of the model's own left out (made what
they are in `State.reset`). Two states of the block are the same when this is. -/
def State.block (s : State) : State := { s with inputs := [], readResult := none }

/-- The operations of a list one after another, stopping at the first that is refused. -/
def runOps (ops : List Instr) (s : State) : Host.Outcome State Fault Refusal :=
  match ops with
  | [] => .next s
  | i :: rest =>
    match exec i s with
    | .next t => runOps rest t
    | .fault f => .fault f
    | .refused r => .refused r

/-- No falling edge of the list is accepted: at each one the unit is armed for rising, so it is ignored (41_capture.md R131). -/
def AcceptsNoFallingEdge (ops : List Instr) (s : State) : Prop :=
  match ops with
  | [] => True
  | i :: rest =>
    (i = .edgeF → s.edgePhase = .armedRising) ∧ ∀ t, exec i s = .next t → AcceptsNoFallingEdge rest t

/-- A run so far: the block's state, the results of its host reads, oldest first, and whether it was refused. -/
structure Run where
  state : State
  reads : List Word
  refused : Bool
deriving DecidableEq, Repr

/-- A run at power-up (70_reset_and_hazards.md R231). -/
def powerUp : Run := ⟨State.reset, [], false⟩

/-- One step word in a run (00_scope.md R17; 30_encoding.md R78): a reserved word leaves the state unchanged and marks the
run, and no later step clears the mark. -/
def feed (r : Run) (w : StepWord) : Run :=
  match runWord w r.state with
  | .next t => { state := t, reads := r.reads ++ t.readResult.toList, refused := r.refused }
  | .refused _ => { r with refused := true }
  | .fault f => nomatch f

/-- A finite sequence of step words (70_reset_and_hazards.md R236). -/
def feedAll (r : Run) (ws : List StepWord) : Run := ws.foldl feed r

end Sys2Proof.Machine
end

