-- ==== Sys2Proof/Machine/Assembler.lean ====
section
/-!
DEFINITION. The assembler of step programs (30_encoding.md R80 to R86): a line of text to the steps it stands for. What the
rules leave open of the text is in notes/assumptions/10.md.
-/

namespace Sys2Proof.Machine

/-- One step of an assembled program. The second step of TOGGLE is a word the host computes when it has the read's
result (30_encoding.md R84). -/
inductive ProgStep where
  | word (w : StepWord)
  /-- `WR CTRL, #(r XOR 1)`, `r` the result of the host's last read. -/
  | toggleWrite
deriving DecidableEq, Repr

/-- What an assembler refuses (30_encoding.md R81). -/
inductive AsmError where
  /-- An immediate out of its range. -/
  | immediateRange
  /-- A register name not in R80. -/
  | registerName
  /-- A line that is none of the forms of R81 to R86. -/
  | notALine
deriving DecidableEq, Repr

/-- A finished token, unless it is empty; the accumulator holds its characters backwards. -/
def flushToken (acc : List Char) : List (List Char) :=
  match acc with
  | [] => []
  | _ :: _ => [acc.reverse]

/-- The tokens of a line up to a comment (R80): blanks separate, `,` and `*` stand alone, `;` begins a comment. -/
def tokens (cs : List Char) (acc : List Char) : List (List Char) :=
  match cs with
  | [] => flushToken acc
  | c :: rest =>
    if c = ';' then flushToken acc
    else if c = ' ' ∨ c = '\t' then flushToken acc ++ tokens rest []
    else if c = ',' ∨ c = '*' then flushToken acc ++ [c] :: tokens rest []
    else tokens rest (c :: acc)

/-- A digit of a number in `base`, 10 or 16. -/
def digitValue (base : Nat) (c : Char) : Option Nat :=
  let n := c.toNat
  let v :=
    if 48 ≤ n ∧ n ≤ 57 then n - 48
    else if 65 ≤ n ∧ n ≤ 70 then n - 55
    else if 97 ≤ n ∧ n ≤ 102 then n - 87
    else 16
  if v < base then some v else none

/-- The rest of a number, after the digits whose value is `acc`. -/
def numberFrom (base acc : Nat) (cs : List Char) : Option Nat :=
  match cs with
  | [] => some acc
  | c :: rest =>
    match digitValue base c with
    | some v => numberFrom base (acc * base + v) rest
    | none => none

/-- A number in `base`, of at least one digit. -/
def number (base : Nat) (cs : List Char) : Option Nat :=
  match cs with
  | [] => none
  | _ :: _ => numberFrom base 0 cs

/-- An immediate: `#` and a decimal number, or `#0x` and a hexadecimal one (R80). -/
def immediate (tok : List Char) : Option Nat :=
  match tok with
  | '#' :: '0' :: 'x' :: ds => number 16 ds
  | '#' :: ds => number 10 ds
  | _ => none

/-- An immediate below `bound`, as a data word. -/
def immediateBelow (bound : Nat) (tok : List Char) : Except AsmError Word :=
  match immediate tok with
  | some v => if v < bound then .ok (BitVec.ofNat 16 v) else .error .immediateRange
  | none => .error .notALine

/-- The register names (R80). -/
def registerNames : List (List Char × Index) :=
  [("CTRL".toList, 0), ("VALUE".toList, 1), ("DIGITS".toList, 2), ("SCAN".toList, 3), ("CAPW".toList, 4),
   ("CAPS".toList, 5), ("PWMC".toList, 6), ("R7".toList, 7), ("R8".toList, 8), ("R9".toList, 9), ("R10".toList, 10),
   ("R11".toList, 11), ("R12".toList, 12), ("R13".toList, 13), ("R14".toList, 14), ("R15".toList, 15)]

/-- The index of a register name. -/
def registerIndex (tok : List Char) : Except AsmError Index :=
  match registerNames.lookup tok with
  | some a => .ok a
  | none => .error .registerName

/-- The mnemonics with no operand (R81) and the aliases BLANK and UNBLANK (R86). -/
def plainMnemonics : List (List Char × Instr) :=
  [("ENABLE".toList, .enable), ("DISABLE".toList, .disable), ("TICK".toList, .tick), ("CTICK".toList, .ctick),
   ("PTICK".toList, .ptick), ("EDGE.R".toList, .edgeR), ("EDGE.F".toList, .edgeF), ("RESET".toList, .reset),
   ("BLANK".toList, .disable), ("UNBLANK".toList, .enable)]

/-- Mnemonics are case-insensitive (R80). -/
def isMnemonic (tok : List Char) (name : String) : Bool := decide (tok.map Char.toUpper = name.toList)

/-- A line of one token: a mnemonic with no operand, or TOGGLE (R81, R84, R86). -/
def assembleBare (m : List Char) : Except AsmError (List ProgStep) :=
  if isMnemonic m "TOGGLE" then .ok [.word (hostReadWord 0), .toggleWrite]
  else
    match plainMnemonics.lookup (m.map Char.toUpper) with
    | some i => .ok [.word (encode i)]
    | none => .error .notALine

/-- A line of a mnemonic and one operand: RD, SETVAL, SETPWM or SHOW (R81, R82, R85). -/
def assembleUnary (p : Params) (m x : List Char) : Except AsmError (List ProgStep) :=
  if isMnemonic m "RD" then do return [.word (hostReadWord (← registerIndex x))]
  else if isMnemonic m "SETVAL" then do return [.word (encode (.setval (← immediateBelow 65536 x)))]
  else if isMnemonic m "SETPWM" then do return [.word (encode (.setpwm (← immediateBelow (2 ^ p.pwmBits) x)))]
  else if isMnemonic m "SHOW" then do
    return [.word (encode (.setval (← immediateBelow 65536 x))), .word (encode .enable)]
  else .error .notALine

/-- A line without repetition (R81, R82, R84 to R86). -/
def assembleTokens (p : Params) (toks : List (List Char)) : Except AsmError (List ProgStep) :=
  match toks with
  | [m] => assembleBare m
  | [m, x] => assembleUnary p m x
  | [m, x, [','], v] =>
    if isMnemonic m "WR" then do return [.word (hostWriteWord (← registerIndex x) (← immediateBelow 65536 v))]
    else .error .notALine
  | _ => .error .notALine

/-- A line, with `*n` for `n >= 1` copies (R83). -/
def assembleLine (p : Params) (line : List Char) : Except AsmError (List ProgStep) :=
  match (tokens line []).reverse with
  | n :: ['*'] :: body =>
    match number 10 n with
    | some (k + 1) => do return (List.replicate (k + 1) (← assembleTokens p body.reverse)).flatten
    | _ => .error .notALine
  | toks => assembleTokens p toks.reverse

/-- A step program: its lines in order (R80). -/
def assemble (p : Params) (lines : List (List Char)) : Except AsmError (List ProgStep) :=
  match lines with
  | [] => .ok []
  | l :: rest => do return (← assembleLine p l) ++ (← assemble p rest)

/-- A read result as a listing shows it: `-> 0xhhhh` (R81). -/
def showRead (v : Word) : List Char :=
  "-> 0x".toList ++
    [v.toNat / 4096 % 16, v.toNat / 256 % 16, v.toNat / 16 % 16, v.toNat % 16].map fun n => n.digitChar.toUpper

/-- One program step in a run; the host has kept the result of its last read (R84). -/
def playStep (r : Run) (x : ProgStep) : Run :=
  match x with
  | .word w => feed r w
  | .toggleWrite => feed r (hostWriteWord 0 (r.reads.getLastD 0 ^^^ 1#16))

/-- An assembled program in a run. -/
def play (r : Run) (xs : List ProgStep) : Run := xs.foldl playStep r

end Sys2Proof.Machine
end

