-- ==== Sys2Proof/Machine/Bus.lean ====
section
/-!
DEFINITION. The host's bus in front of the block: the register window (20_memory.md R50, R57) and the platform adapter
that forms step words from host accesses (R52, R53; 30_encoding.md R71).
-/

namespace Sys2Proof.Machine

/-- A host access at a byte address. `data` is what a 16-bit write carries; no other access has a use for it. -/
structure HostAccess where
  write : Bool
  addr : Nat
  bytes : Nat
  data : Word
deriving DecidableEq, Repr

/-- `BLOCK_BASE + 2*A`, the address of register `A` (20_memory.md R50). -/
def regAddr (p : Params) (a : Index) : Nat := p.blockBase + 2 * a.toNat

/-- The step word of a host access (30_encoding.md R71), or why it has none (20_memory.md R52, R53; V11). The order in
which the reasons are looked for is a DESIGN CHOICE (notes/assumptions/9.md). -/
def stepWordOf (p : Params) (x : HostAccess) : Except NoStepWord StepWord :=
  if x.bytes ≠ 2 then .error .width
  else if x.addr < p.blockBase ∨ p.blockBase + 32 ≤ x.addr then .error .outsideWindow
  else if (x.addr - p.blockBase) % 2 = 1 then .error .misaligned
  else
    let a : Index := BitVec.ofNat 4 ((x.addr - p.blockBase) / 2)
    .ok (if x.write then hostWriteWord a x.data else hostReadWord a)

/-- A host access performed on the block: its step word, or a refusal where it has none (V11). That such an access is a
refusal and not simply no step is a DESIGN CHOICE (notes/assumptions/18.md). -/
def deliverAccess (x : HostAccess) (s : State) : Host.Outcome State Fault Refusal :=
  match stepWordOf hw x with
  | .ok w => runWord w s
  | .error r => .refused (.noStepWord r)

/-- A host access in a run: its step word, as `feed` takes it; where it has none, no transition, and the run is marked
refused. The mark is a DESIGN CHOICE: V11 says to refuse the access and that it has no transition, 70_reset_and_hazards.md
R234 that the run is refused or has no step (notes/assumptions/18.md). -/
def feedAccess (r : Run) (x : HostAccess) : Run :=
  match stepWordOf hw x with
  | .ok w => feed r w
  | .error _ => { r with refused := true }

end Sys2Proof.Machine
end

