-- ==== Sys2Proof/Safety.lean ====
section
/-!
DEFINITION. What holds of every state a run reaches (10_state.md R23, R24, R29, R33 to R36), what a host must not do
(70_reset_and_hazards.md R234), and when a run is safe: it was never refused (00_scope.md R17).
-/

namespace Sys2Proof.Machine

/-- The spec's invariants, for an instance with parameters `p`. -/
structure Inv (p : Params) (s : State) : Prop where
  /-- `displayedValue <= 9999` (R23, R24). -/
  value_le : s.displayedValue ≤ 9999
  /-- `digits[i] = (displayedValue div 10^i) mod 10` (R24). -/
  digits_eq : ∀ i : Fin 4, (digit s.digits i).val = s.displayedValue / 10 ^ i.val % 10
  /-- At most one bit of `DIG` is 1 (R29). -/
  dig_one : ∀ i j : Fin 4, s.dig.getLsbD i = true → s.dig.getLsbD j = true → i = j
  /-- `SEG = 0` whenever `DIG = 0` (R29). -/
  seg_zero : s.dig = 0 → s.seg = 0
  /-- When `enabled = false`, `DIG = 0` and `SEG = 0` (R29). -/
  dark : s.enabled = false → s.dig = 0 ∧ s.seg = 0
  /-- `SEG` has at most one bit set (40_display.md R110). -/
  seg_one : ∀ i j : Fin 7, s.seg.getLsbD i = true → s.seg.getLsbD j = true → i = j
  /-- `lastPulseWidth` is `CNT_BITS` wide (R33). -/
  width_lt : s.lastPulseWidth.toNat < 2 ^ p.cntBits
  /-- `ccnt` is `CNT_BITS` wide (R34). -/
  ccnt_lt : s.ccnt.toNat < 2 ^ p.cntBits
  /-- `pwmCmp` is `PWM_BITS` wide (R35). -/
  cmp_lt : s.pwmCmp.toNat < 2 ^ p.pwmBits
  /-- `pwmCnt <= PWM_TOP` (R36). -/
  cnt_le : s.pwmCnt ≤ p.pwmTop

/-- A step word the host or an agent may send: it is not reserved (70_reset_and_hazards.md R234). -/
def legalWord (p : Params) (w : StepWord) : Bool :=
  match decode p w with
  | .ok _ => true
  | .error _ => false

/-- A run that was never refused (00_scope.md R17). -/
def safeRun (r : Run) : Bool := !r.refused

end Sys2Proof.Machine
end

