-- ==== Sys2Proof/Certificates/Slice0/Obligations.lean ====
section
/-!
DEFINITION. The statements about the model that the provers are asked to prove. Each docstring says which rule of spec/ it
formalises. `hw` is the instance the machine runs with; its OPEN parameters are constants with no body, so a statement
about `hw` holds whatever they are. A statement over every `p : Params` holds for every instance.
-/

open Sys2Proof Sys2Proof.Machine

/-! ### Encoding -/

/-- One step word per family, as 30_encoding.md R81 lists them, decodes to its operation on the instance. -/
def Obligations.FamilyWordsDecode : Prop :=
  decode hw 0x800001#24 = .ok .enable ∧ decode hw 0x8104D2#24 = .ok (.setval 1234#16) ∧
    decode hw 0x030000#24 = .ok .rdScan ∧ decode hw 0x100000#24 = .ok .tick ∧ decode hw 0x130001#24 = .ok .edgeF ∧
    decode hw 0x040000#24 = .ok .rdCapw ∧ decode hw 0x860080#24 = .ok (.setpwm 128#16) ∧
    decode hw 0x120000#24 = .ok .ptick ∧ decode hw 0x140000#24 = .ok .reset

/-- 30_encoding.md R74 and R75: each operation is decoded from exactly the words its row gives (match, mask, operand). -/
def Obligations.OpcodeMapIsExact : Prop :=
  ∀ p : Params, p.InRange → ∀ w : StepWord,
    (decode p w = .ok .enable ↔ w = 0x800001#24) ∧
    (decode p w = .ok .disable ↔ w = 0x800000#24) ∧
    (decode p w = .ok .rdCtrl ↔ w = 0x000000#24) ∧
    (∀ d : Word, decode p w = .ok (.setval d) ↔ w = 0x810000#24 ||| d.setWidth 24) ∧
    (decode p w = .ok .rdValue ↔ w = 0x010000#24) ∧
    (decode p w = .ok .rdDigits ↔ w = 0x020000#24) ∧
    (decode p w = .ok .rdScan ↔ w = 0x030000#24) ∧
    (decode p w = .ok .rdCapw ↔ w = 0x040000#24) ∧
    (decode p w = .ok .rdCaps ↔ w = 0x050000#24) ∧
    (∀ d : Word, decode p w = .ok (.setpwm d) ↔ w = 0x860000#24 ||| d.setWidth 24 ∧ d.toNat < 2 ^ p.pwmBits) ∧
    (decode p w = .ok .rdPwmc ↔ w = 0x060000#24) ∧
    (decode p w = .ok .tick ↔ w = 0x100000#24) ∧
    (decode p w = .ok .ctick ↔ w = 0x110000#24) ∧
    (decode p w = .ok .ptick ↔ w = 0x120000#24) ∧
    (decode p w = .ok .edgeR ↔ w = 0x130000#24) ∧
    (decode p w = .ok .edgeF ↔ w = 0x130001#24) ∧
    (decode p w = .ok .reset ↔ w = 0x140000#24)

/-- Decoding the encoding of a well-formed operation gives it back, on every instance (30_encoding.md R71 to R76). -/
def Obligations.DecodeOfEncodeIsTheOperation : Prop :=
  ∀ p : Params, p.InRange → ∀ i : Instr, i.wellFormed p = true → decode p (encode i) = .ok i

/-- A word that decodes is the encoding of its operation, and that operation is well-formed: no two words of one operation
and operand (30_encoding.md R76). -/
def Obligations.DecodedWordIsItsEncoding : Prop :=
  ∀ p : Params, p.InRange → ∀ (w : StepWord) (i : Instr), decode p w = .ok i → encode i = w ∧ i.wellFormed p = true

/-- 30_encoding.md R78 and 60_exceptions.md R201: the reserved words are those of the table of R78 and no others, each with its
reason (where a word is in two rows, the first that R76 tests); the machine refuses each of them with that reason, the
state of the run is unchanged, and the run carries a mark that no later step clears. -/
def Obligations.ReservedWordsAreRefusedAndMarked : Prop :=
  ∀ w : StepWord,
    let a := (w.extractLsb' 16 4).toNat
    let c := (w.extractLsb' 20 3).toNat
    let d := (w.extractLsb' 0 16).toNat
    let write := w.getLsbD 23
    let reason : Option Reserved :=
      if c = 0 ∧ write = true ∧ a = 0 ∧ d ≠ 0 ∧ d ≠ 1 then some .ctrlReservedBits
      else if c = 0 ∧ write = true ∧ a = 6 ∧ 2 ^ hw.pwmBits ≤ d then some .pwmcReservedBits
      else if c = 0 ∧ write = true ∧ (a = 2 ∨ a = 3 ∨ a = 4 ∨ a = 5) then some .writeReadOnly
      else if c = 0 ∧ write = true ∧ 7 ≤ a then some .writeReservedRegister
      else if c = 0 ∧ write = false ∧ d ≠ 0 then some .readNonzeroData
      else if c = 0 ∧ write = false ∧ 7 ≤ a then some .readReservedRegister
      else if c = 1 ∧ write = true then some .eventWithW
      else if c = 1 ∧ (5 ≤ a ∨ (a = 0 ∨ a = 1 ∨ a = 2 ∨ a = 4) ∧ d ≠ 0 ∨ a = 3 ∧ d ≠ 0 ∧ d ≠ 1) then some .reservedEvent
      else if 2 ≤ c then some .reservedClass
      else none
    ∀ r : Reserved,
      (decode hw w = .error r ↔ reason = some r) ∧
      (reason = some r →
        (∀ s : State, runWord w s = .refused (.reservedWord r)) ∧
        ∀ (u : Run) (ws : List StepWord),
          (feed u w).state = u.state ∧ (feed u w).reads = u.reads ∧ (feedAll (feed u w) ws).refused = true)

/-- 00_scope.md R17, 30_encoding.md R78: over any sequence of words, the reserved ones change neither the state nor the read
results, and the run is marked exactly when one of them occurred. -/
def Obligations.RunSkipsReservedWords : Prop :=
  ∀ (r : Run) (ws : List StepWord),
    (feedAll r ws).state = (feedAll r (ws.filter (legalWord hw))).state ∧
    (feedAll r ws).reads = (feedAll r (ws.filter (legalWord hw))).reads ∧
    (feedAll r ws).refused = (r.refused || ws.any fun w => !legalWord hw w)

/-! ### Steps and runs -/

/-- A step takes the next step word: it is `exec` of the operation the word decodes to, on the state without that word; on a
reserved word it is the refusal (00_scope.md R17, 20_memory.md R59, 30_encoding.md R78). -/
def Obligations.StepRunsTheDecodedOperation : Prop :=
  ∀ (s : State) (w : StepWord) (rest : List StepWord), s.inputs = w :: rest →
    (∀ i : Instr, decode hw w = .ok i → step s = exec i { s with inputs := rest }) ∧
    (∀ r : Reserved, decode hw w = .error r → step s = .refused (.reservedWord r))

/-- The MODEL'S CHOICE (notes/assumptions/5.md): with no step word waiting, a step leaves the state as it is. -/
def Obligations.StepWithNoInputLeavesTheState : Prop :=
  ∀ s : State, s.inputs = [] → step s = .next s

/-- The host's machine, run on the encodings of a list of operations, does the operations one after another: the runs of the
statements below are runs of the machine (00_scope.md R17, 20_memory.md R59). -/
def Obligations.MachineRunIsRunOfOperations : Prop :=
  ∀ (ops : List Instr) (s : State) (rest : List StepWord), (∀ i ∈ ops, i.wellFormed hw = true) →
    Sys2Proof.core.run ops.length ({ s with inputs := ops.map encode ++ rest } : State) =
      runOps ops { s with inputs := rest }

/-- 60_exceptions.md R200: no operation can fail: every sequence of the instance's operations completes from every state. -/
def Obligations.NoOperationCanFail : Prop :=
  ∀ (ops : List Instr) (s : State), (∀ i ∈ ops, i.wellFormed hw = true) → ∃ t, runOps ops s = .next t

/-! ### Each operation: its word, that it completes, its result and its frame

`State.block` is the spec's own part of a state, so `t.block = { s.block with … }` is the frame over all of it. There is no
memory to frame. The 16-bit result that 00_scope.md R17 pairs with the next state of a host read is found in the field
`readResult` (notes/assumptions/6.md). -/

/-- 40_display.md R100: ENABLE sets `enabled` and nothing else. -/
def Obligations.EnableSetsOnlyEnabled : Prop :=
  decode hw 0x800001#24 = .ok .enable ∧
    ∀ s : State, ∃ t : State, exec .enable s = .next t ∧ t.block = { s.block with enabled := true }

/-- 40_display.md R101: DISABLE clears `enabled`, forces `DIG` and `SEG` to 0, and changes nothing else. -/
def Obligations.DisableBlanksTheOutputs : Prop :=
  decode hw 0x800000#24 = .ok .disable ∧
    ∀ s : State, ∃ t : State, exec .disable s = .next t ∧
      t.block = { s.block with enabled := false, dig := 0b0000#4, seg := 0b0000000#7 }

/-- 40_display.md R102: RD.CTRL returns the enable flag in bit 0, the other bits 0, and changes nothing. -/
def Obligations.ReadCtrlReturnsEnabled : Prop :=
  decode hw 0x000000#24 = .ok .rdCtrl ∧
    ∀ s : State, ∃ (t : State) (v : Word), exec .rdCtrl s = .next t ∧ t.block = s.block ∧ t.readResult = some v ∧
      v.toNat = (if s.enabled = true then 1 else 0)

/-- 40_display.md R103: SETVAL stores `min(D, 9999)` and its decimal digits, whose weighted sum is the value; nothing else
changes. -/
def Obligations.SetvalStoresTheClampedValueAndItsDigits : Prop :=
  ∀ d : Word, decode hw (0x810000#24 ||| d.setWidth 24) = .ok (.setval d) ∧
    ∀ s : State, ∃ t : State, exec (.setval d) s = .next t ∧
      t.displayedValue = min d.toNat 9999 ∧
      (∀ i : Fin 4, (digit t.digits i).val = min d.toNat 9999 / 10 ^ i.val % 10) ∧
      t.digits.d0.val + 10 * t.digits.d1.val + 100 * t.digits.d2.val + 1000 * t.digits.d3.val = min d.toNat 9999 ∧
      t.block = { s.block with digits := t.digits, displayedValue := t.displayedValue }

/-- 40_display.md R104: RD.VALUE returns `zext_16(displayedValue)` and changes nothing; in every state of the invariant the
result is the value, in 0..9999. -/
def Obligations.ReadValueReturnsDisplayedValue : Prop :=
  decode hw 0x010000#24 = .ok .rdValue ∧
    ∀ s : State, ∃ (t : State) (v : Word), exec .rdValue s = .next t ∧ t.block = s.block ∧ t.readResult = some v ∧
      v.toNat = s.displayedValue % 2 ^ 16 ∧ (Inv hw s → v.toNat = s.displayedValue ∧ v.toNat ≤ 9999)

/-- 40_display.md R105: RD.DIGITS returns the four digits, one nibble each, units lowest, and changes nothing; every nibble is
in 0..9. -/
def Obligations.ReadDigitsReturnsTheNibbles : Prop :=
  decode hw 0x020000#24 = .ok .rdDigits ∧
    ∀ s : State, ∃ (t : State) (v : Word), exec .rdDigits s = .next t ∧ t.block = s.block ∧ t.readResult = some v ∧
      ∀ i : Fin 4, (v.extractLsb' (4 * i.val) 4).toNat = (digit s.digits i).val ∧ (v.extractLsb' (4 * i.val) 4).toNat ≤ 9

/-- 40_display.md R106: RD.SCAN returns `activeSegment` in bits 2:0 and `activeDigit` in bits 5:4, the other bits 0, and
changes nothing; SEGIDX never reads 7; what it returns is the position that the next enabled tick strobes. -/
def Obligations.ReadScanReturnsThePosition : Prop :=
  decode hw 0x030000#24 = .ok .rdScan ∧
    ∀ s : State, ∃ (t : State) (v : Word), exec .rdScan s = .next t ∧ t.block = s.block ∧ t.readResult = some v ∧
      (v.extractLsb' 0 3).toNat = s.activeSegment.val ∧ (v.extractLsb' 4 2).toNat = s.activeDigit.val ∧
      v.getLsbD 3 = false ∧ v.toNat < 64 ∧ (v.extractLsb' 0 3).toNat ≠ 7 ∧
      (s.enabled = true → ∃ u : State, exec .tick t = .next u ∧ u.dig.getLsbD (v.extractLsb' 4 2).toNat = true ∧
        ∀ j : Nat, u.seg.getLsbD j = true → j = (v.extractLsb' 0 3).toNat)

/-- 40_display.md R110: TICK. Disabled, it changes nothing. Enabled, it completes with `DIG` the one line of the active digit,
`SEG` the active segment's bit of the shown pattern and no other bit, the segment index advanced modulo 7 and the digit
index modulo 4 on the wrap, and nothing else changed. -/
def Obligations.TickStrobesAndAdvances : Prop :=
  decode hw 0x100000#24 = .ok .tick ∧
    ∀ s : State,
      (s.enabled = false → ∃ t : State, exec .tick s = .next t ∧ t.block = s.block) ∧
      (s.enabled = true → ∃ t : State, exec .tick s = .next t ∧
        (∀ j : Fin 4, t.dig.getLsbD j = decide (j = s.activeDigit)) ∧
        (∀ j : Fin 7, t.seg.getLsbD j =
          (decide (j = s.activeSegment) && (shown hw s s.activeDigit).getLsbD j)) ∧
        t.activeSegment.val = (s.activeSegment.val + 1) % 7 ∧
        t.activeDigit.val = (if s.activeSegment.val = 6 then (s.activeDigit.val + 1) % 4 else s.activeDigit.val) ∧
        t.block = { s.block with
          dig := t.dig, seg := t.seg, activeSegment := t.activeSegment, activeDigit := t.activeDigit })

/-- 41_capture.md R130: EDGE.R. Armed for rising, it arms falling and zeroes `ccnt`, and changes nothing else; armed for
falling, it changes nothing. -/
def Obligations.RisingEdgeStartsThePulse : Prop :=
  decode hw 0x130000#24 = .ok .edgeR ∧
    ∀ s : State, ∃ t : State, exec .edgeR s = .next t ∧
      (s.edgePhase = .armedRising → t.block = { s.block with edgePhase := .armedFalling, ccnt := 0 }) ∧
      (s.edgePhase = .armedFalling → t.block = s.block)

/-- 41_capture.md R131: EDGE.F. Armed for falling, it stores `(ccnt + CLOCK_FUDGE) mod 2^CNT_BITS`, arms rising and zeroes
`ccnt`, and changes nothing else; armed for rising, it changes nothing. -/
def Obligations.FallingEdgeMeasuresThePulse : Prop :=
  decode hw 0x130001#24 = .ok .edgeF ∧
    ∀ s : State, ∃ t : State, exec .edgeF s = .next t ∧
      (s.edgePhase = .armedFalling →
        (t.lastPulseWidth.toNat : Int) = ((s.ccnt.toNat : Int) + hw.clockFudge) % (2 : Int) ^ hw.cntBits ∧
        t.block = { s.block with lastPulseWidth := t.lastPulseWidth, edgePhase := .armedRising, ccnt := 0 }) ∧
      (s.edgePhase = .armedRising → t.block = s.block)

/-- 41_capture.md R132: CTICK counts `ccnt` modulo `2^CNT_BITS` in both phases and changes nothing else. -/
def Obligations.CtickCountsModuloTheWidth : Prop :=
  decode hw 0x110000#24 = .ok .ctick ∧
    ∀ s : State, ∃ t : State, exec .ctick s = .next t ∧
      t.ccnt.toNat = (s.ccnt.toNat + 1) % 2 ^ hw.cntBits ∧ t.block = { s.block with ccnt := t.ccnt }

/-- 41_capture.md R133: RD.CAPW returns `lastPulseWidth` and changes nothing; at reset the result is 0. -/
def Obligations.ReadCapwReturnsTheWidth : Prop :=
  decode hw 0x040000#24 = .ok .rdCapw ∧
    (∀ s : State, ∃ t : State, exec .rdCapw s = .next t ∧ t.block = s.block ∧ t.readResult = some s.lastPulseWidth) ∧
    ∃ t : State, exec .rdCapw State.reset = .next t ∧ t.readResult = some 0

/-- 41_capture.md R134: RD.CAPS returns 1 when armed for falling and 0 when armed for rising, and changes nothing. -/
def Obligations.ReadCapsReturnsThePhase : Prop :=
  decode hw 0x050000#24 = .ok .rdCaps ∧
    ∀ s : State, ∃ (t : State) (v : Word), exec .rdCaps s = .next t ∧ t.block = s.block ∧ t.readResult = some v ∧
      v.toNat = (if s.edgePhase = .armedFalling then 1 else 0)

/-- 42_pwm.md R150: SETPWM writes the compare register, with effect on `PWMOUT` at once, and nothing else. An operand of
`2^PWM_BITS` or more is no operand of it: on every instance its word is reserved. The last clause, that the operation itself
answers a next state for the operands below `2^PWM_BITS` and no others, is the model's reading of R150 and R78
(notes/assumptions/7.md). -/
def Obligations.SetpwmWritesTheCompareRegister : Prop :=
  ∀ d : Word,
    (d.toNat < 2 ^ hw.pwmBits →
      decode hw (0x860000#24 ||| d.setWidth 24) = .ok (.setpwm d) ∧
      ∀ s : State, ∃ t : State, exec (.setpwm d) s = .next t ∧ t.block = { s.block with pwmCmp := d } ∧
        pwmOut t = decide (s.pwmCnt < d.toNat)) ∧
    (∀ p : Params, p.InRange → 2 ^ p.pwmBits ≤ d.toNat →
      decode p (0x860000#24 ||| d.setWidth 24) = .error .pwmcReservedBits) ∧
    (∀ s : State, (∃ t, exec (.setpwm d) s = .next t) ↔ d.toNat < 2 ^ hw.pwmBits)

/-- 42_pwm.md R151: RD.PWMC returns the compare register and changes nothing; in every state of the invariant, bits
15:PWM_BITS read 0; from reset the result is 0. -/
def Obligations.ReadPwmcReturnsTheCompareRegister : Prop :=
  decode hw 0x060000#24 = .ok .rdPwmc ∧
    (∀ s : State, ∃ t : State, exec .rdPwmc s = .next t ∧ t.block = s.block ∧ t.readResult = some s.pwmCmp ∧
      (Inv hw s → ∀ j : Nat, hw.pwmBits ≤ j → s.pwmCmp.getLsbD j = false)) ∧
    ∃ t : State, exec .rdPwmc State.reset = .next t ∧ t.readResult = some 0

/-- 42_pwm.md R152: PTICK counts to `PWM_TOP` and wraps to 0, changes nothing else, and `PWMOUT` after it compares the new
count. -/
def Obligations.PtickCountsAndWrapsAtTop : Prop :=
  decode hw 0x120000#24 = .ok .ptick ∧
    ∀ s : State, ∃ t : State, exec .ptick s = .next t ∧
      (s.pwmCnt = hw.pwmTop → t.pwmCnt = 0) ∧ (s.pwmCnt ≠ hw.pwmTop → t.pwmCnt = s.pwmCnt + 1) ∧
      (s.pwmCnt ≤ hw.pwmTop → t.pwmCnt ≤ hw.pwmTop) ∧
      (pwmOut t = true ↔ t.pwmCnt < s.pwmCmp.toNat) ∧
      t.block = { s.block with pwmCnt := t.pwmCnt }

/-- 70_reset_and_hazards.md R230: RESET gives every field of the block its reset value from any state, `PWMOUT` becomes 0,
RESET twice equals RESET once, and the refused mark of a run stays. -/
def Obligations.ResetOperationGivesTheResetState : Prop :=
  decode hw 0x140000#24 = .ok .reset ∧
    (∀ s : State, ∃ t : State, exec .reset s = .next t ∧ t.block = State.reset ∧ pwmOut t = false ∧
      exec .reset t = .next t) ∧
    ∀ r : Run, (feed r 0x140000#24).refused = r.refused

/-- 10_state.md R49: the value of each field after power-up and after RESET. -/
def Obligations.ResetValuesOfEveryField : Prop :=
  powerUp.state = State.reset ∧ (∀ s : State, ∃ t : State, exec .reset s = .next t ∧ t.block = State.reset) ∧
    (∀ i : Fin 4, digit State.reset.digits i = 0) ∧ State.reset.displayedValue = 0 ∧ State.reset.enabled = false ∧
    State.reset.activeDigit = 0 ∧ State.reset.activeSegment = 0 ∧ State.reset.dig = 0b0000#4 ∧
    State.reset.seg = 0b0000000#7 ∧ State.reset.edgePhase = .armedRising ∧ State.reset.lastPulseWidth = 0 ∧
    State.reset.ccnt = 0 ∧ State.reset.pwmCmp = 0 ∧ State.reset.pwmCnt = 0 ∧ pwmOut State.reset = false

/-- The MODEL'S OWN two fields (notes/assumptions/4.md, 6.md): no operation touches the step words still to arrive, RESET
included, and the result field holds a result exactly after the operations that are host reads. -/
def Obligations.OnlyReadsAnswerAndNoneTouchesTheInputs : Prop :=
  ∀ (i : Instr) (s t : State), exec i s = .next t →
    t.inputs = s.inputs ∧ (t.readResult.isSome = true ↔ isRead i = true)

/-! ### Invariants -/

/-- The reset state meets the invariant of every instance in range (10_state.md R24, R29, R33 to R36, R49). -/
def Obligations.ResetMeetsTheInvariant : Prop :=
  ∀ p : Params, p.InRange → Inv p State.reset

/-- Every step keeps the invariant, from every state that meets it, whatever inputs are waiting (10_state.md R23, R24, R29, R33
to R36). -/
def Obligations.StepKeepsTheInvariant : Prop :=
  ∀ s t : State, Inv hw s → step s = .next t → Inv hw t

/-- 10_state.md R24 and R29, for every reachable state: after any sequence of step words from power-up, the digits are the
decomposition of a value of at most 9999, `DIG` has at most one line set, `SEG` is 0 whenever `DIG` is, and both are 0 while
disabled. -/
def Obligations.ReachableStatesDecomposeAndStayDark : Prop :=
  ∀ ws : List StepWord,
    let s := (feedAll powerUp ws).state
    (∀ i : Fin 4, (digit s.digits i).val = s.displayedValue / 10 ^ i.val % 10) ∧ s.displayedValue ≤ 9999 ∧
    (∀ i j : Fin 4, s.dig.getLsbD i = true → s.dig.getLsbD j = true → i = j) ∧
    (s.dig = 0 → s.seg = 0) ∧ (s.enabled = false → s.dig = 0 ∧ s.seg = 0)

/-! ### Whole-machine rules over runs -/

/-- 10_state.md R23, R25 to R28: over any run, each field of the display changes only if an operation that may write it
occurs in the run. -/
def Obligations.DisplayFieldsHaveOnlyTheirWriters : Prop :=
  ∀ (ops : List Instr) (s t : State), runOps ops s = .next t →
    ((∀ i ∈ ops, i ≠ .reset ∧ ∀ d, i ≠ .setval d) → t.digits = s.digits ∧ t.displayedValue = s.displayedValue) ∧
    ((∀ i ∈ ops, i ≠ .reset ∧ i ≠ .enable ∧ i ≠ .disable) → t.enabled = s.enabled) ∧
    ((∀ i ∈ ops, i ≠ .reset ∧ i ≠ .tick) → t.activeDigit = s.activeDigit ∧ t.activeSegment = s.activeSegment) ∧
    ((∀ i ∈ ops, i ≠ .reset ∧ i ≠ .tick ∧ i ≠ .disable) → t.dig = s.dig ∧ t.seg = s.seg)

/-- 10_state.md R32 to R36: over any run, each field of the capture unit and of the PWM driver changes only if an operation
that may write it occurs in the run. -/
def Obligations.CaptureAndPwmFieldsHaveOnlyTheirWriters : Prop :=
  ∀ (ops : List Instr) (s t : State), runOps ops s = .next t →
    ((∀ i ∈ ops, i ≠ .reset ∧ i ≠ .edgeR ∧ i ≠ .edgeF) → t.edgePhase = s.edgePhase) ∧
    ((∀ i ∈ ops, i ≠ .reset ∧ i ≠ .edgeF) → t.lastPulseWidth = s.lastPulseWidth) ∧
    ((∀ i ∈ ops, i ≠ .reset ∧ i ≠ .edgeR ∧ i ≠ .edgeF ∧ i ≠ .ctick) → t.ccnt = s.ccnt) ∧
    ((∀ i ∈ ops, i ≠ .reset ∧ ∀ d, i ≠ .setpwm d) → t.pwmCmp = s.pwmCmp) ∧
    ((∀ i ∈ ops, i ≠ .reset ∧ i ≠ .ptick) → t.pwmCnt = s.pwmCnt)

/-- 60_exceptions.md R208, 70_reset_and_hazards.md R235: over any run of host steps, the scan position, the capture state and
both counters keep their values. -/
def Obligations.HostCannotMoveTheInterruptOwnedFields : Prop :=
  ∀ (ops : List Instr) (s t : State), (∀ i ∈ ops, agentOf i = .host) → runOps ops s = .next t →
    t.activeDigit = s.activeDigit ∧ t.activeSegment = s.activeSegment ∧ t.lastPulseWidth = s.lastPulseWidth ∧
      t.edgePhase = s.edgePhase ∧ t.ccnt = s.ccnt ∧ t.pwmCnt = s.pwmCnt

/-- The three units run apart (00_scope.md R3, 60_exceptions.md R213): what a run leaves in a unit is what the operations that
touch that unit leave alone, in their order; the steps of other agents may come between them. -/
def Obligations.UnitsRunApart : Prop :=
  ∀ (ops : List Instr) (s t : State), runOps ops s = .next t →
    (∃ u, runOps (ops.filter affectsDisplay) s = .next u ∧
      t.digits = u.digits ∧ t.displayedValue = u.displayedValue ∧ t.enabled = u.enabled ∧
      t.activeDigit = u.activeDigit ∧ t.activeSegment = u.activeSegment ∧ t.dig = u.dig ∧ t.seg = u.seg) ∧
    (∃ u, runOps (ops.filter affectsCapture) s = .next u ∧
      t.edgePhase = u.edgePhase ∧ t.lastPulseWidth = u.lastPulseWidth ∧ t.ccnt = u.ccnt) ∧
    (∃ u, runOps (ops.filter affectsPwm) s = .next u ∧ t.pwmCmp = u.pwmCmp ∧ t.pwmCnt = u.pwmCnt)

/-- 10_state.md R39: the host cannot read the counters: with no falling edge in the run, the read results are the same whatever
`ccnt` and `pwmCnt` were. -/
def Obligations.ReadsDoNotShowTheHiddenCounters : Prop :=
  ∀ (ops : List Instr) (s : State) (c : Word) (n : Nat) (reads : List Word) (mark : Bool), .edgeF ∉ ops →
    (feedAll ⟨{ s with ccnt := c, pwmCnt := n }, reads, mark⟩ (ops.map encode)).reads =
      (feedAll ⟨s, reads, mark⟩ (ops.map encode)).reads

/-- 20_memory.md R56: a host read changes no field of the block and repeats with the same result; a legal host write done twice
leaves the state of doing it once. -/
def Obligations.HostAccessesAreIdempotent : Prop :=
  ∀ (i : Instr) (s : State), agentOf i = .host → i.wellFormed hw = true →
    (∃ t, runOps [i] s = .next t ∧ runOps [i, i] s = .next t) ∧
    (isRead i = true → ∃ (t : State) (v : Word), exec i s = .next t ∧ t.block = s.block ∧ t.readResult = some v)

/-- 70_reset_and_hazards.md R237: a host read right after a host write returns the written effect. -/
def Obligations.ReadRightAfterWriteReturnsTheEffect : Prop :=
  ∀ (s : State) (d : Word),
    (∃ t, runOps [.setval d, .rdValue] s = .next t ∧ t.readResult = some (BitVec.ofNat 16 (min d.toNat 9999))) ∧
    (∃ t, runOps [.enable, .rdCtrl] s = .next t ∧ t.readResult = some 1) ∧
    (∃ t, runOps [.disable, .rdCtrl] s = .next t ∧ t.readResult = some 0) ∧
    (d.toNat < 2 ^ hw.pwmBits → ∃ t, runOps [.setpwm d, .rdPwmc] s = .next t ∧ t.readResult = some d)

/-- 70_reset_and_hazards.md R230, R232: whatever ran before it, a reset completes and leaves the reset state. -/
def Obligations.ResetDiscardsEveryRun : Prop :=
  ∀ (ops : List Instr) (s : State), (∀ i ∈ ops, i.wellFormed hw = true) →
    ∃ t, runOps (ops ++ [.reset]) s = .next t ∧ t.block = State.reset

/-! ### The display engine -/

/-- 40_display.md R111 and R112: the blanked positions and the shown pattern, for every instance and state; and in every state
of the invariant, a position is blanked exactly when leading zeros are blanked, it is not the units, and the displayed
value has no digit at it or above. -/
def Obligations.BlankedPositionsAreTheLeadingZeros : Prop :=
  ∀ (p : Params) (s : State) (i : Fin 4),
    (blank p s i = true ↔
      p.blankPolicy = .leading ∧ 1 ≤ i.val ∧ ∀ j : Fin 4, i ≤ j → digit s.digits j = 0) ∧
    (blank p s i = true → shown p s i = 0b0000000#7) ∧
    (blank p s i = false → shown p s i = p.segTable (digit s.digits i)) ∧
    (Inv p s → (blank p s i = true ↔ p.blankPolicy = .leading ∧ 1 ≤ i.val ∧ s.displayedValue < 10 ^ i.val))

/-- 40_display.md R113: from any state with `enabled = true`, a run without ENABLE, DISABLE or RESET moves the scan position on
by its number of TICKs modulo 28; so 28 of them return it and no fewer do. -/
def Obligations.ScanCycleIsTwentyEightTicks : Prop :=
  ∀ (ops : List Instr) (s t : State), s.enabled = true →
    (∀ i ∈ ops, i ≠ .enable ∧ i ≠ .disable ∧ i ≠ .reset) → runOps ops s = .next t →
    7 * t.activeDigit.val + t.activeSegment.val =
      (7 * s.activeDigit.val + s.activeSegment.val + ops.count .tick) % 28 ∧
    (ops.count .tick = 28 → (t.activeDigit, t.activeSegment) = (s.activeDigit, s.activeSegment)) ∧
    (0 < ops.count .tick → ops.count .tick < 28 →
      (t.activeDigit, t.activeSegment) ≠ (s.activeDigit, s.activeSegment))

/-- 40_display.md R114: after DISABLE, any run without ENABLE or RESET leaves `DIG` and `SEG` 0 and the scan position
unchanged; the run completes when its operations are the instance's. -/
def Obligations.BlankingIsIdempotent : Prop :=
  ∀ (ops : List Instr) (s : State), (∀ i ∈ ops, i.wellFormed hw = true ∧ i ≠ .enable ∧ i ≠ .reset) →
    ∃ t, runOps (.disable :: ops) s = .next t ∧ t.dig = 0b0000#4 ∧ t.seg = 0b0000000#7 ∧
      t.activeDigit = s.activeDigit ∧ t.activeSegment = s.activeSegment

/-- 40_display.md R117: while enabled, the ticks strobe the 28 positions in turn, so each digit is selected for 7 consecutive
ticks, 7 of every 28, and each segment of a digit is driven in exactly one tick of 28 if its bit of `shown` is 1, in none
otherwise. -/
def Obligations.EachSegmentIsDrivenOncePerCycle : Prop :=
  ∀ s : State, s.enabled = true → ∃ after : Nat → State,
    (∀ n, runOps (List.replicate n .tick) s = .next (after n)) ∧
    (∀ n (i : Fin 4) (k : Fin 7),
      (after (n + 1)).dig.getLsbD i =
        decide (i.val = (7 * s.activeDigit.val + s.activeSegment.val + n) % 28 / 7) ∧
      ((after (n + 1)).dig.getLsbD i = true →
        (after (n + 1)).seg.getLsbD k =
          (decide (k.val = (7 * s.activeDigit.val + s.activeSegment.val + n) % 7) && (shown hw s i).getLsbD k))) ∧
    (∀ i : Fin 4, (List.range 28).countP (fun n => (after (n + 1)).dig.getLsbD i) = 7) ∧
    (∀ (i : Fin 4) (k : Fin 7),
      (List.range 28).countP (fun n => (after (n + 1)).dig.getLsbD i && (after (n + 1)).seg.getLsbD k) =
        if (shown hw s i).getLsbD k = true then 1 else 0)

/-- 40_display.md R116: a SETVAL between two ticks leaves the outputs as they are, and the next enabled tick strobes the new
digits at the position where the scan stands. -/
def Obligations.NextTickShowsTheNewValue : Prop :=
  ∀ (s : State) (d : Word), s.enabled = true → ∃ u t : State,
    exec (.setval d) s = .next u ∧ exec .tick u = .next t ∧ u.dig = s.dig ∧ u.seg = s.seg ∧
    (∀ j : Fin 4, t.dig.getLsbD j = decide (j = s.activeDigit)) ∧
    (∀ j : Fin 7, t.seg.getLsbD j =
      (decide (j = s.activeSegment) &&
        (if hw.blankPolicy = .leading ∧ 1 ≤ s.activeDigit.val ∧ min d.toNat 9999 < 10 ^ s.activeDigit.val then 0#7
         else hw.segTable (decimalDigit (min d.toNat 9999) s.activeDigit.val)).getLsbD j))

/-- 40_display.md R115: the sub-steps (a), (b) and (c) of a tick, in that order, never have two digit-select lines set
together; the state of an enabled tick is the one after all of them and the advance, with the outputs they left. -/
def Obligations.NoTwoDigitLinesWithinATick : Prop :=
  ∀ (p : Params) (s : State),
    (strobeA s).dig = 0b0000#4 ∧
    (∀ i j : Fin 4, (strobeB (strobeA s)).dig.getLsbD i = true → (strobeB (strobeA s)).dig.getLsbD j = true → i = j) ∧
    (strobeC p (strobeB (strobeA s))).dig = (strobeB (strobeA s)).dig ∧
    (s.enabled = true →
      refreshTick p s = advanceScan (strobeC p (strobeB (strobeA s))) ∧
      (refreshTick p s).dig = (strobeC p (strobeB (strobeA s))).dig ∧
      (refreshTick p s).seg = (strobeC p (strobeB (strobeA s))).seg)

/-- 10_state.md R43, 95_test_vectors.md S1: after SETVAL, the nibbles of RD DIGITS read as decimal are the clamped value. -/
def Obligations.DigitsReadAsDecimalTheValue : Prop :=
  ∀ (s : State) (d : Word), ∃ (t : State) (v : Word), runOps [.setval d, .rdDigits] s = .next t ∧
    t.readResult = some v ∧
    v.toNat % 16 + 10 * (v.toNat / 16 % 16) + 100 * (v.toNat / 256 % 16) + 1000 * (v.toNat / 4096 % 16) =
      min d.toNat 9999

/-! ### The capture engine -/

/-- 41_capture.md R135: from a state armed for rising, a rising edge, a run with no edge and no reset that counts `N` CTICKs,
and a falling edge measure `(N + CLOCK_FUDGE) mod 2^CNT_BITS` and arm rising again; when the sum is in range it is the sum. -/
def Obligations.PulsePairMeasuresItsCounts : Prop :=
  ∀ (ops : List Instr) (s t : State), s.edgePhase = .armedRising →
    (∀ i ∈ ops, i ≠ .edgeR ∧ i ≠ .edgeF ∧ i ≠ .reset) → runOps (.edgeR :: ops ++ [.edgeF]) s = .next t →
    (t.lastPulseWidth.toNat : Int) = ((ops.count .ctick : Int) + hw.clockFudge) % (2 : Int) ^ hw.cntBits ∧
    t.edgePhase = .armedRising ∧
    (0 ≤ (ops.count .ctick : Int) + hw.clockFudge → (ops.count .ctick : Int) + hw.clockFudge < (2 : Int) ^ hw.cntBits →
      (t.lastPulseWidth.toNat : Int) = (ops.count .ctick : Int) + hw.clockFudge)

/-- 41_capture.md R137: a pulse of `2^CNT_BITS` more counts leaves the very same state: nothing records that the counter
wrapped, and the width is `(M + CLOCK_FUDGE) mod 2^CNT_BITS`. -/
def Obligations.LongPulseMeasuresModuloTheWidth : Prop :=
  ∀ (s : State) (m : Nat), s.edgePhase = .armedRising →
    ∃ t, runOps (.edgeR :: List.replicate (m + 2 ^ hw.cntBits) .ctick ++ [.edgeF]) s = .next t ∧
      runOps (.edgeR :: List.replicate m .ctick ++ [.edgeF]) s = .next t ∧
      (t.lastPulseWidth.toNat : Int) = ((m + 2 ^ hw.cntBits : Nat) + hw.clockFudge) % (2 : Int) ^ hw.cntBits

/-- 41_capture.md R136: edges may be lost; when the falling edge of a first pulse and nothing else of a signal is lost, the next
falling edge measures from the first rising edge, across the low time and the next high time. -/
def Obligations.LostFallingEdgeMeasuresAcross : Prop :=
  ∀ (high low high' : List Instr) (s : State), s.edgePhase = .armedRising →
    (∀ i ∈ high ++ low ++ high', i.wellFormed hw = true ∧ i ≠ .edgeR ∧ i ≠ .edgeF ∧ i ≠ .reset) →
    let physical := .edgeR :: high ++ [.edgeF] ++ low ++ [.edgeR] ++ high' ++ [.edgeF]
    let detected := .edgeR :: high ++ low ++ [.edgeR] ++ high' ++ [.edgeF]
    LosesOnlyEdges physical detected ∧
    ∃ t, runOps detected s = .next t ∧ t.edgePhase = .armedRising ∧
      (t.lastPulseWidth.toNat : Int) =
        (((high ++ low ++ high').count .ctick : Int) + hw.clockFudge) % (2 : Int) ^ hw.cntBits

/-- 41_capture.md R136: `edgePhase` changes only on an accepted edge (or reset), every accepted edge flips it, and
`lastPulseWidth` is written only by an accepted falling edge (or reset). -/
def Obligations.AcceptedEdgesAlternate : Prop :=
  ∀ (i : Instr) (s t : State), exec i s = .next t → i ≠ .reset →
    (t.edgePhase ≠ s.edgePhase ↔
      (i = .edgeR ∧ s.edgePhase = .armedRising) ∨ (i = .edgeF ∧ s.edgePhase = .armedFalling)) ∧
    (t.lastPulseWidth ≠ s.lastPulseWidth → i = .edgeF ∧ s.edgePhase = .armedFalling)

/-- 41_capture.md R138: after any run without RESET in which no falling edge is accepted (an ignored one may come, R131), a host
read of CAPW returns the width of the last completed pulse, the one that stood there before the run; after a RESET and any
run, further RESETs among it, in which no falling edge is accepted, it returns 0. -/
def Obligations.CapwHoldsTheLastPulse : Prop :=
  ∀ (ops : List Instr) (s : State), (∀ i ∈ ops, i.wellFormed hw = true) →
    ((∀ i ∈ ops, i ≠ .reset) → AcceptsNoFallingEdge ops s →
      ∃ t, runOps (ops ++ [.rdCapw]) s = .next t ∧ t.readResult = some s.lastPulseWidth) ∧
    (AcceptsNoFallingEdge (.reset :: ops) s →
      ∃ t, runOps (.reset :: ops ++ [.rdCapw]) s = .next t ∧ t.readResult = some 0)

/-! ### The PWM driver -/

/-- 42_pwm.md R153: while `pwmCmp` does not change, a period that starts at count 0 has `PWMOUT = 1` for the first
`min(pwmCmp, PWM_TOP + 1)` counts and 0 for the rest, and ends at count 0. -/
def Obligations.OnTimeIsTheCompareValue : Prop :=
  ∀ s : State, s.pwmCnt = 0 → ∃ after : Nat → State,
    (∀ n, runOps (List.replicate n .ptick) s = .next (after n)) ∧
    (∀ n, n ≤ hw.pwmTop → (pwmOut (after n) = true ↔ n < min s.pwmCmp.toNat (hw.pwmTop + 1))) ∧
    (List.range (hw.pwmTop + 1)).countP (fun n => pwmOut (after n)) = min s.pwmCmp.toNat (hw.pwmTop + 1) ∧
    (after (hw.pwmTop + 1)).pwmCnt = 0

/-- 42_pwm.md R152, R153: over any run without RESET, from a count within the period, the count goes on by the number of PTICKs
modulo `PWM_TOP + 1`, whatever other steps come between, SETPWM among them; and if none of them is a SETPWM, `PWMOUT`
compares that count with the compare value before the run. -/
def Obligations.PwmPeriodIsTopPlusOne : Prop :=
  ∀ (ops : List Instr) (s t : State), s.pwmCnt ≤ hw.pwmTop → (∀ i ∈ ops, i ≠ .reset) → runOps ops s = .next t →
    t.pwmCnt = (s.pwmCnt + ops.count .ptick) % (hw.pwmTop + 1) ∧
    ((∀ i ∈ ops, ∀ d, i ≠ .setpwm d) →
      pwmOut t = decide ((s.pwmCnt + ops.count .ptick) % (hw.pwmTop + 1) < s.pwmCmp.toNat))

/-- 42_pwm.md R154: a compare write in the middle of a period takes effect at once: it can start a second high interval, and it
can end the high interval. -/
def Obligations.CompareWriteTakesEffectAtOnce : Prop :=
  ∀ (s : State) (d : Word), d.toNat < 2 ^ hw.pwmBits →
    (s.pwmCmp.toNat ≤ s.pwmCnt → s.pwmCnt < d.toNat →
      pwmOut s = false ∧ ∃ t, exec (.setpwm d) s = .next t ∧ pwmOut t = true ∧ t.pwmCnt = s.pwmCnt) ∧
    (s.pwmCnt < s.pwmCmp.toNat → d.toNat ≤ s.pwmCnt →
      pwmOut s = true ∧ ∃ t, exec (.setpwm d) s = .next t ∧ pwmOut t = false ∧ t.pwmCnt = s.pwmCnt)

/-! ### The host's side -/

/-- 10_state.md R40, R48: a host read of a defined index returns `R[A]` and changes nothing; indices 0 to 6 are defined and no
others; a read or a write of another index is a reserved step word and is refused. -/
def Obligations.ReadsFollowTheRegisterMap : Prop :=
  ∀ (a : Index) (s : State),
    (regRead a s = none ↔ 7 ≤ a.toNat) ∧
    (∀ v, regRead a s = some v →
      ∃ t : State, runWord (hostReadWord a) s = .next t ∧ t.block = s.block ∧ t.readResult = some v) ∧
    (7 ≤ a.toNat →
      runWord (hostReadWord a) s = .refused (.reservedWord .readReservedRegister) ∧
      ∀ d : Word, runWord (hostWriteWord a d) s = .refused (.reservedWord .writeReservedRegister))

/-- 20_memory.md R50, R52, R53, 30_encoding.md R71: the accesses that have a step word are the 16-bit ones at
`BLOCK_BASE + 2*A`, and their words are `0x800000 | (A << 16) | D` for a write and `A << 16` for a read. The last clause, that
any other access is refused when it is delivered, is the MODEL'S CHOICE among what 93_implementation_defined.md V11 and
70_reset_and_hazards.md R234 allow (notes/assumptions/18.md). -/
def Obligations.AlignedWordAccessesFormStepWords : Prop :=
  ∀ (p : Params) (x : HostAccess),
    (∀ w : StepWord, stepWordOf p x = .ok w ↔
      x.bytes = 2 ∧ ∃ a : Index, x.addr = p.blockBase + 2 * a.toNat ∧
        w.toNat = (if x.write = true then 0x800000 + 65536 * a.toNat + x.data.toNat else 65536 * a.toNat)) ∧
    ((¬ ∃ w, stepWordOf hw x = .ok w) → ∀ s : State, ∃ r, deliverAccess x s = .refused (.noStepWord r))

/-- 30_encoding.md R84, 20_memory.md R62: TOGGLE makes `enabled` the opposite of what its read found and is not refused, whatever
steps of the other agents come between its read and its write, a RESET among them (70_reset_and_hazards.md R232). -/
def Obligations.ToggleFlipsEnabledAcrossEvents : Prop :=
  ∀ (r : Run) (events : List Instr), (∀ i ∈ events, agentOf i ≠ .host) →
    let r' := play r (.word (hostReadWord 0) :: events.map (fun i => .word (encode i)) ++ [.toggleWrite])
    r'.state.enabled = !r.state.enabled ∧ r'.refused = r.refused

/-- 30_encoding.md R85: the two words of SHOW give the same state in either order. -/
def Obligations.ShowGivesTheSameStateInEitherOrder : Prop :=
  ∀ (s : State) (d : Word), ∃ t, runOps [.setval d, .enable] s = .next t ∧ runOps [.enable, .setval d] s = .next t ∧
    t.enabled = true ∧ t.displayedValue = min d.toNat 9999

/-- Lines of 30_encoding.md R81 to R86 and the words they stand for. -/
def Obligations.LinesAssembleToTheirWords : Prop :=
  assembleLine hw "WR SCAN, #0".toList = .ok [.word 0x830000#24] ∧
    assembleLine hw "show #7 ; seven".toList = .ok [.word 0x810007#24, .word 0x800001#24] ∧
    assembleLine hw "TICK *3".toList = .ok [.word 0x100000#24, .word 0x100000#24, .word 0x100000#24] ∧
    assembleLine hw "BLANK".toList = .ok [.word 0x800000#24] ∧
    assembleLine hw "SETVAL #0x10000".toList = .error .immediateRange ∧
    assembleLine hw "RD R16".toList = .error .registerName
end

