-- ==== Sys2Proof/Laws/State.lean ====
section
/-!
SUPPORT. What each named update of the state does to each field: one lemma per field and update, so that no proof unfolds a
record update. The updates that branch (advanceScan, refreshTick, risingEdge, fallingEdge) have a lemma for each field they
leave alone and their spec lemmas in Laws/Ops.lean.
-/

namespace Sys2Proof.Machine

section pushInput

variable (w : StepWord) (s : State)

@[simp] theorem pushInput_digits : (pushInput w s).digits = s.digits := rfl
@[simp] theorem pushInput_displayedValue : (pushInput w s).displayedValue = s.displayedValue := rfl
@[simp] theorem pushInput_enabled : (pushInput w s).enabled = s.enabled := rfl
@[simp] theorem pushInput_activeDigit : (pushInput w s).activeDigit = s.activeDigit := rfl
@[simp] theorem pushInput_activeSegment : (pushInput w s).activeSegment = s.activeSegment := rfl
@[simp] theorem pushInput_dig : (pushInput w s).dig = s.dig := rfl
@[simp] theorem pushInput_seg : (pushInput w s).seg = s.seg := rfl
@[simp] theorem pushInput_edgePhase : (pushInput w s).edgePhase = s.edgePhase := rfl
@[simp] theorem pushInput_lastPulseWidth : (pushInput w s).lastPulseWidth = s.lastPulseWidth := rfl
@[simp] theorem pushInput_ccnt : (pushInput w s).ccnt = s.ccnt := rfl
@[simp] theorem pushInput_pwmCmp : (pushInput w s).pwmCmp = s.pwmCmp := rfl
@[simp] theorem pushInput_pwmCnt : (pushInput w s).pwmCnt = s.pwmCnt := rfl
@[simp] theorem pushInput_inputs : (pushInput w s).inputs = w :: s.inputs := rfl
@[simp] theorem pushInput_readResult : (pushInput w s).readResult = s.readResult := rfl

end pushInput

section respond

variable (v : Word) (s : State)

@[simp] theorem respond_digits : (respond v s).digits = s.digits := rfl
@[simp] theorem respond_displayedValue : (respond v s).displayedValue = s.displayedValue := rfl
@[simp] theorem respond_enabled : (respond v s).enabled = s.enabled := rfl
@[simp] theorem respond_activeDigit : (respond v s).activeDigit = s.activeDigit := rfl
@[simp] theorem respond_activeSegment : (respond v s).activeSegment = s.activeSegment := rfl
@[simp] theorem respond_dig : (respond v s).dig = s.dig := rfl
@[simp] theorem respond_seg : (respond v s).seg = s.seg := rfl
@[simp] theorem respond_edgePhase : (respond v s).edgePhase = s.edgePhase := rfl
@[simp] theorem respond_lastPulseWidth : (respond v s).lastPulseWidth = s.lastPulseWidth := rfl
@[simp] theorem respond_ccnt : (respond v s).ccnt = s.ccnt := rfl
@[simp] theorem respond_pwmCmp : (respond v s).pwmCmp = s.pwmCmp := rfl
@[simp] theorem respond_pwmCnt : (respond v s).pwmCnt = s.pwmCnt := rfl
@[simp] theorem respond_inputs : (respond v s).inputs = s.inputs := rfl
@[simp] theorem respond_readResult : (respond v s).readResult = some v := rfl

end respond

section quiet

variable (s : State)

@[simp] theorem quiet_digits : (quiet s).digits = s.digits := rfl
@[simp] theorem quiet_displayedValue : (quiet s).displayedValue = s.displayedValue := rfl
@[simp] theorem quiet_enabled : (quiet s).enabled = s.enabled := rfl
@[simp] theorem quiet_activeDigit : (quiet s).activeDigit = s.activeDigit := rfl
@[simp] theorem quiet_activeSegment : (quiet s).activeSegment = s.activeSegment := rfl
@[simp] theorem quiet_dig : (quiet s).dig = s.dig := rfl
@[simp] theorem quiet_seg : (quiet s).seg = s.seg := rfl
@[simp] theorem quiet_edgePhase : (quiet s).edgePhase = s.edgePhase := rfl
@[simp] theorem quiet_lastPulseWidth : (quiet s).lastPulseWidth = s.lastPulseWidth := rfl
@[simp] theorem quiet_ccnt : (quiet s).ccnt = s.ccnt := rfl
@[simp] theorem quiet_pwmCmp : (quiet s).pwmCmp = s.pwmCmp := rfl
@[simp] theorem quiet_pwmCnt : (quiet s).pwmCnt = s.pwmCnt := rfl
@[simp] theorem quiet_inputs : (quiet s).inputs = s.inputs := rfl
@[simp] theorem quiet_readResult : (quiet s).readResult = none := rfl

end quiet

section setEnabled

variable (b : Bool) (s : State)

@[simp] theorem setEnabled_digits : (setEnabled b s).digits = s.digits := rfl
@[simp] theorem setEnabled_displayedValue : (setEnabled b s).displayedValue = s.displayedValue := rfl
@[simp] theorem setEnabled_enabled : (setEnabled b s).enabled = b := rfl
@[simp] theorem setEnabled_activeDigit : (setEnabled b s).activeDigit = s.activeDigit := rfl
@[simp] theorem setEnabled_activeSegment : (setEnabled b s).activeSegment = s.activeSegment := rfl
@[simp] theorem setEnabled_dig : (setEnabled b s).dig = s.dig := rfl
@[simp] theorem setEnabled_seg : (setEnabled b s).seg = s.seg := rfl
@[simp] theorem setEnabled_edgePhase : (setEnabled b s).edgePhase = s.edgePhase := rfl
@[simp] theorem setEnabled_lastPulseWidth : (setEnabled b s).lastPulseWidth = s.lastPulseWidth := rfl
@[simp] theorem setEnabled_ccnt : (setEnabled b s).ccnt = s.ccnt := rfl
@[simp] theorem setEnabled_pwmCmp : (setEnabled b s).pwmCmp = s.pwmCmp := rfl
@[simp] theorem setEnabled_pwmCnt : (setEnabled b s).pwmCnt = s.pwmCnt := rfl
@[simp] theorem setEnabled_inputs : (setEnabled b s).inputs = s.inputs := rfl
@[simp] theorem setEnabled_readResult : (setEnabled b s).readResult = s.readResult := rfl

end setEnabled

section storeValue

variable (v : Nat) (s : State)

@[simp] theorem storeValue_digits : (storeValue v s).digits = digitsOf v := rfl
@[simp] theorem storeValue_displayedValue : (storeValue v s).displayedValue = v := rfl
@[simp] theorem storeValue_enabled : (storeValue v s).enabled = s.enabled := rfl
@[simp] theorem storeValue_activeDigit : (storeValue v s).activeDigit = s.activeDigit := rfl
@[simp] theorem storeValue_activeSegment : (storeValue v s).activeSegment = s.activeSegment := rfl
@[simp] theorem storeValue_dig : (storeValue v s).dig = s.dig := rfl
@[simp] theorem storeValue_seg : (storeValue v s).seg = s.seg := rfl
@[simp] theorem storeValue_edgePhase : (storeValue v s).edgePhase = s.edgePhase := rfl
@[simp] theorem storeValue_lastPulseWidth : (storeValue v s).lastPulseWidth = s.lastPulseWidth := rfl
@[simp] theorem storeValue_ccnt : (storeValue v s).ccnt = s.ccnt := rfl
@[simp] theorem storeValue_pwmCmp : (storeValue v s).pwmCmp = s.pwmCmp := rfl
@[simp] theorem storeValue_pwmCnt : (storeValue v s).pwmCnt = s.pwmCnt := rfl
@[simp] theorem storeValue_inputs : (storeValue v s).inputs = s.inputs := rfl
@[simp] theorem storeValue_readResult : (storeValue v s).readResult = s.readResult := rfl

end storeValue

section blankOutputs

variable (s : State)

@[simp] theorem blankOutputs_digits : (blankOutputs s).digits = s.digits := rfl
@[simp] theorem blankOutputs_displayedValue : (blankOutputs s).displayedValue = s.displayedValue := rfl
@[simp] theorem blankOutputs_enabled : (blankOutputs s).enabled = s.enabled := rfl
@[simp] theorem blankOutputs_activeDigit : (blankOutputs s).activeDigit = s.activeDigit := rfl
@[simp] theorem blankOutputs_activeSegment : (blankOutputs s).activeSegment = s.activeSegment := rfl
@[simp] theorem blankOutputs_dig : (blankOutputs s).dig = 0#4 := rfl
@[simp] theorem blankOutputs_seg : (blankOutputs s).seg = 0#7 := rfl
@[simp] theorem blankOutputs_edgePhase : (blankOutputs s).edgePhase = s.edgePhase := rfl
@[simp] theorem blankOutputs_lastPulseWidth : (blankOutputs s).lastPulseWidth = s.lastPulseWidth := rfl
@[simp] theorem blankOutputs_ccnt : (blankOutputs s).ccnt = s.ccnt := rfl
@[simp] theorem blankOutputs_pwmCmp : (blankOutputs s).pwmCmp = s.pwmCmp := rfl
@[simp] theorem blankOutputs_pwmCnt : (blankOutputs s).pwmCnt = s.pwmCnt := rfl
@[simp] theorem blankOutputs_inputs : (blankOutputs s).inputs = s.inputs := rfl
@[simp] theorem blankOutputs_readResult : (blankOutputs s).readResult = s.readResult := rfl

end blankOutputs

section strobeA

variable (s : State)

@[simp] theorem strobeA_digits : (strobeA s).digits = s.digits := rfl
@[simp] theorem strobeA_displayedValue : (strobeA s).displayedValue = s.displayedValue := rfl
@[simp] theorem strobeA_enabled : (strobeA s).enabled = s.enabled := rfl
@[simp] theorem strobeA_activeDigit : (strobeA s).activeDigit = s.activeDigit := rfl
@[simp] theorem strobeA_activeSegment : (strobeA s).activeSegment = s.activeSegment := rfl
@[simp] theorem strobeA_dig : (strobeA s).dig = 0#4 := rfl
@[simp] theorem strobeA_seg : (strobeA s).seg = s.seg := rfl
@[simp] theorem strobeA_edgePhase : (strobeA s).edgePhase = s.edgePhase := rfl
@[simp] theorem strobeA_lastPulseWidth : (strobeA s).lastPulseWidth = s.lastPulseWidth := rfl
@[simp] theorem strobeA_ccnt : (strobeA s).ccnt = s.ccnt := rfl
@[simp] theorem strobeA_pwmCmp : (strobeA s).pwmCmp = s.pwmCmp := rfl
@[simp] theorem strobeA_pwmCnt : (strobeA s).pwmCnt = s.pwmCnt := rfl
@[simp] theorem strobeA_inputs : (strobeA s).inputs = s.inputs := rfl
@[simp] theorem strobeA_readResult : (strobeA s).readResult = s.readResult := rfl

end strobeA

section strobeB

variable (s : State)

@[simp] theorem strobeB_digits : (strobeB s).digits = s.digits := rfl
@[simp] theorem strobeB_displayedValue : (strobeB s).displayedValue = s.displayedValue := rfl
@[simp] theorem strobeB_enabled : (strobeB s).enabled = s.enabled := rfl
@[simp] theorem strobeB_activeDigit : (strobeB s).activeDigit = s.activeDigit := rfl
@[simp] theorem strobeB_activeSegment : (strobeB s).activeSegment = s.activeSegment := rfl
@[simp] theorem strobeB_dig : (strobeB s).dig = onehot4 s.activeDigit := rfl
@[simp] theorem strobeB_seg : (strobeB s).seg = s.seg := rfl
@[simp] theorem strobeB_edgePhase : (strobeB s).edgePhase = s.edgePhase := rfl
@[simp] theorem strobeB_lastPulseWidth : (strobeB s).lastPulseWidth = s.lastPulseWidth := rfl
@[simp] theorem strobeB_ccnt : (strobeB s).ccnt = s.ccnt := rfl
@[simp] theorem strobeB_pwmCmp : (strobeB s).pwmCmp = s.pwmCmp := rfl
@[simp] theorem strobeB_pwmCnt : (strobeB s).pwmCnt = s.pwmCnt := rfl
@[simp] theorem strobeB_inputs : (strobeB s).inputs = s.inputs := rfl
@[simp] theorem strobeB_readResult : (strobeB s).readResult = s.readResult := rfl

end strobeB

section strobeC

variable (p : Params) (s : State)

@[simp] theorem strobeC_digits : (strobeC p s).digits = s.digits := rfl
@[simp] theorem strobeC_displayedValue : (strobeC p s).displayedValue = s.displayedValue := rfl
@[simp] theorem strobeC_enabled : (strobeC p s).enabled = s.enabled := rfl
@[simp] theorem strobeC_activeDigit : (strobeC p s).activeDigit = s.activeDigit := rfl
@[simp] theorem strobeC_activeSegment : (strobeC p s).activeSegment = s.activeSegment := rfl
@[simp] theorem strobeC_dig : (strobeC p s).dig = s.dig := rfl
@[simp] theorem strobeC_seg : (strobeC p s).seg = shown p s s.activeDigit &&& segMask s.activeSegment := rfl
@[simp] theorem strobeC_edgePhase : (strobeC p s).edgePhase = s.edgePhase := rfl
@[simp] theorem strobeC_lastPulseWidth : (strobeC p s).lastPulseWidth = s.lastPulseWidth := rfl
@[simp] theorem strobeC_ccnt : (strobeC p s).ccnt = s.ccnt := rfl
@[simp] theorem strobeC_pwmCmp : (strobeC p s).pwmCmp = s.pwmCmp := rfl
@[simp] theorem strobeC_pwmCnt : (strobeC p s).pwmCnt = s.pwmCnt := rfl
@[simp] theorem strobeC_inputs : (strobeC p s).inputs = s.inputs := rfl
@[simp] theorem strobeC_readResult : (strobeC p s).readResult = s.readResult := rfl

end strobeC

section acceptEdge

variable (e : EdgePhase) (s : State)

@[simp] theorem acceptEdge_digits : (acceptEdge e s).digits = s.digits := rfl
@[simp] theorem acceptEdge_displayedValue : (acceptEdge e s).displayedValue = s.displayedValue := rfl
@[simp] theorem acceptEdge_enabled : (acceptEdge e s).enabled = s.enabled := rfl
@[simp] theorem acceptEdge_activeDigit : (acceptEdge e s).activeDigit = s.activeDigit := rfl
@[simp] theorem acceptEdge_activeSegment : (acceptEdge e s).activeSegment = s.activeSegment := rfl
@[simp] theorem acceptEdge_dig : (acceptEdge e s).dig = s.dig := rfl
@[simp] theorem acceptEdge_seg : (acceptEdge e s).seg = s.seg := rfl
@[simp] theorem acceptEdge_edgePhase : (acceptEdge e s).edgePhase = e := rfl
@[simp] theorem acceptEdge_lastPulseWidth : (acceptEdge e s).lastPulseWidth = s.lastPulseWidth := rfl
@[simp] theorem acceptEdge_ccnt : (acceptEdge e s).ccnt = 0 := rfl
@[simp] theorem acceptEdge_pwmCmp : (acceptEdge e s).pwmCmp = s.pwmCmp := rfl
@[simp] theorem acceptEdge_pwmCnt : (acceptEdge e s).pwmCnt = s.pwmCnt := rfl
@[simp] theorem acceptEdge_inputs : (acceptEdge e s).inputs = s.inputs := rfl
@[simp] theorem acceptEdge_readResult : (acceptEdge e s).readResult = s.readResult := rfl

end acceptEdge

section countCapture

variable (p : Params) (s : State)

@[simp] theorem countCapture_digits : (countCapture p s).digits = s.digits := rfl
@[simp] theorem countCapture_displayedValue : (countCapture p s).displayedValue = s.displayedValue := rfl
@[simp] theorem countCapture_enabled : (countCapture p s).enabled = s.enabled := rfl
@[simp] theorem countCapture_activeDigit : (countCapture p s).activeDigit = s.activeDigit := rfl
@[simp] theorem countCapture_activeSegment : (countCapture p s).activeSegment = s.activeSegment := rfl
@[simp] theorem countCapture_dig : (countCapture p s).dig = s.dig := rfl
@[simp] theorem countCapture_seg : (countCapture p s).seg = s.seg := rfl
@[simp] theorem countCapture_edgePhase : (countCapture p s).edgePhase = s.edgePhase := rfl
@[simp] theorem countCapture_lastPulseWidth : (countCapture p s).lastPulseWidth = s.lastPulseWidth := rfl
@[simp] theorem countCapture_ccnt : (countCapture p s).ccnt = ccntInc p s.ccnt := rfl
@[simp] theorem countCapture_pwmCmp : (countCapture p s).pwmCmp = s.pwmCmp := rfl
@[simp] theorem countCapture_pwmCnt : (countCapture p s).pwmCnt = s.pwmCnt := rfl
@[simp] theorem countCapture_inputs : (countCapture p s).inputs = s.inputs := rfl
@[simp] theorem countCapture_readResult : (countCapture p s).readResult = s.readResult := rfl

end countCapture

section writeCompare

variable (d : Word) (s : State)

@[simp] theorem writeCompare_digits : (writeCompare d s).digits = s.digits := rfl
@[simp] theorem writeCompare_displayedValue : (writeCompare d s).displayedValue = s.displayedValue := rfl
@[simp] theorem writeCompare_enabled : (writeCompare d s).enabled = s.enabled := rfl
@[simp] theorem writeCompare_activeDigit : (writeCompare d s).activeDigit = s.activeDigit := rfl
@[simp] theorem writeCompare_activeSegment : (writeCompare d s).activeSegment = s.activeSegment := rfl
@[simp] theorem writeCompare_dig : (writeCompare d s).dig = s.dig := rfl
@[simp] theorem writeCompare_seg : (writeCompare d s).seg = s.seg := rfl
@[simp] theorem writeCompare_edgePhase : (writeCompare d s).edgePhase = s.edgePhase := rfl
@[simp] theorem writeCompare_lastPulseWidth : (writeCompare d s).lastPulseWidth = s.lastPulseWidth := rfl
@[simp] theorem writeCompare_ccnt : (writeCompare d s).ccnt = s.ccnt := rfl
@[simp] theorem writeCompare_pwmCmp : (writeCompare d s).pwmCmp = d := rfl
@[simp] theorem writeCompare_pwmCnt : (writeCompare d s).pwmCnt = s.pwmCnt := rfl
@[simp] theorem writeCompare_inputs : (writeCompare d s).inputs = s.inputs := rfl
@[simp] theorem writeCompare_readResult : (writeCompare d s).readResult = s.readResult := rfl

end writeCompare

section countPwm

variable (p : Params) (s : State)

@[simp] theorem countPwm_digits : (countPwm p s).digits = s.digits := rfl
@[simp] theorem countPwm_displayedValue : (countPwm p s).displayedValue = s.displayedValue := rfl
@[simp] theorem countPwm_enabled : (countPwm p s).enabled = s.enabled := rfl
@[simp] theorem countPwm_activeDigit : (countPwm p s).activeDigit = s.activeDigit := rfl
@[simp] theorem countPwm_activeSegment : (countPwm p s).activeSegment = s.activeSegment := rfl
@[simp] theorem countPwm_dig : (countPwm p s).dig = s.dig := rfl
@[simp] theorem countPwm_seg : (countPwm p s).seg = s.seg := rfl
@[simp] theorem countPwm_edgePhase : (countPwm p s).edgePhase = s.edgePhase := rfl
@[simp] theorem countPwm_lastPulseWidth : (countPwm p s).lastPulseWidth = s.lastPulseWidth := rfl
@[simp] theorem countPwm_ccnt : (countPwm p s).ccnt = s.ccnt := rfl
@[simp] theorem countPwm_pwmCmp : (countPwm p s).pwmCmp = s.pwmCmp := rfl
@[simp] theorem countPwm_pwmCnt : (countPwm p s).pwmCnt = pwmCntInc p s.pwmCnt := rfl
@[simp] theorem countPwm_inputs : (countPwm p s).inputs = s.inputs := rfl
@[simp] theorem countPwm_readResult : (countPwm p s).readResult = s.readResult := rfl

end countPwm

section resetBlock

variable (s : State)

@[simp] theorem resetBlock_digits : (resetBlock s).digits = ⟨0, 0, 0, 0⟩ := rfl
@[simp] theorem resetBlock_displayedValue : (resetBlock s).displayedValue = 0 := rfl
@[simp] theorem resetBlock_enabled : (resetBlock s).enabled = false := rfl
@[simp] theorem resetBlock_activeDigit : (resetBlock s).activeDigit = 0 := rfl
@[simp] theorem resetBlock_activeSegment : (resetBlock s).activeSegment = 0 := rfl
@[simp] theorem resetBlock_dig : (resetBlock s).dig = 0#4 := rfl
@[simp] theorem resetBlock_seg : (resetBlock s).seg = 0#7 := rfl
@[simp] theorem resetBlock_edgePhase : (resetBlock s).edgePhase = .armedRising := rfl
@[simp] theorem resetBlock_lastPulseWidth : (resetBlock s).lastPulseWidth = 0 := rfl
@[simp] theorem resetBlock_ccnt : (resetBlock s).ccnt = 0 := rfl
@[simp] theorem resetBlock_pwmCmp : (resetBlock s).pwmCmp = 0 := rfl
@[simp] theorem resetBlock_pwmCnt : (resetBlock s).pwmCnt = 0 := rfl
@[simp] theorem resetBlock_inputs : (resetBlock s).inputs = s.inputs := rfl
@[simp] theorem resetBlock_readResult : (resetBlock s).readResult = s.readResult := rfl

end resetBlock

section advanceScan

variable (s : State)

@[simp] theorem advanceScan_digits : (advanceScan s).digits = s.digits := by unfold advanceScan; split <;> rfl
@[simp] theorem advanceScan_displayedValue : (advanceScan s).displayedValue = s.displayedValue := by unfold advanceScan; split <;> rfl
@[simp] theorem advanceScan_enabled : (advanceScan s).enabled = s.enabled := by unfold advanceScan; split <;> rfl
@[simp] theorem advanceScan_dig : (advanceScan s).dig = s.dig := by unfold advanceScan; split <;> rfl
@[simp] theorem advanceScan_seg : (advanceScan s).seg = s.seg := by unfold advanceScan; split <;> rfl
@[simp] theorem advanceScan_edgePhase : (advanceScan s).edgePhase = s.edgePhase := by unfold advanceScan; split <;> rfl
@[simp] theorem advanceScan_lastPulseWidth : (advanceScan s).lastPulseWidth = s.lastPulseWidth := by unfold advanceScan; split <;> rfl
@[simp] theorem advanceScan_ccnt : (advanceScan s).ccnt = s.ccnt := by unfold advanceScan; split <;> rfl
@[simp] theorem advanceScan_pwmCmp : (advanceScan s).pwmCmp = s.pwmCmp := by unfold advanceScan; split <;> rfl
@[simp] theorem advanceScan_pwmCnt : (advanceScan s).pwmCnt = s.pwmCnt := by unfold advanceScan; split <;> rfl
@[simp] theorem advanceScan_inputs : (advanceScan s).inputs = s.inputs := by unfold advanceScan; split <;> rfl
@[simp] theorem advanceScan_readResult : (advanceScan s).readResult = s.readResult := by unfold advanceScan; split <;> rfl

end advanceScan

section risingEdge

variable (s : State)

@[simp] theorem risingEdge_digits : (risingEdge s).digits = s.digits := by unfold risingEdge; split <;> rfl
@[simp] theorem risingEdge_displayedValue : (risingEdge s).displayedValue = s.displayedValue := by unfold risingEdge; split <;> rfl
@[simp] theorem risingEdge_enabled : (risingEdge s).enabled = s.enabled := by unfold risingEdge; split <;> rfl
@[simp] theorem risingEdge_activeDigit : (risingEdge s).activeDigit = s.activeDigit := by unfold risingEdge; split <;> rfl
@[simp] theorem risingEdge_activeSegment : (risingEdge s).activeSegment = s.activeSegment := by unfold risingEdge; split <;> rfl
@[simp] theorem risingEdge_dig : (risingEdge s).dig = s.dig := by unfold risingEdge; split <;> rfl
@[simp] theorem risingEdge_seg : (risingEdge s).seg = s.seg := by unfold risingEdge; split <;> rfl
@[simp] theorem risingEdge_lastPulseWidth : (risingEdge s).lastPulseWidth = s.lastPulseWidth := by unfold risingEdge; split <;> rfl
@[simp] theorem risingEdge_pwmCmp : (risingEdge s).pwmCmp = s.pwmCmp := by unfold risingEdge; split <;> rfl
@[simp] theorem risingEdge_pwmCnt : (risingEdge s).pwmCnt = s.pwmCnt := by unfold risingEdge; split <;> rfl
@[simp] theorem risingEdge_inputs : (risingEdge s).inputs = s.inputs := by unfold risingEdge; split <;> rfl
@[simp] theorem risingEdge_readResult : (risingEdge s).readResult = s.readResult := by unfold risingEdge; split <;> rfl

end risingEdge

section fallingEdge

variable (p : Params) (s : State)

@[simp] theorem fallingEdge_digits : (fallingEdge p s).digits = s.digits := by unfold fallingEdge; split <;> rfl
@[simp] theorem fallingEdge_displayedValue : (fallingEdge p s).displayedValue = s.displayedValue := by unfold fallingEdge; split <;> rfl
@[simp] theorem fallingEdge_enabled : (fallingEdge p s).enabled = s.enabled := by unfold fallingEdge; split <;> rfl
@[simp] theorem fallingEdge_activeDigit : (fallingEdge p s).activeDigit = s.activeDigit := by unfold fallingEdge; split <;> rfl
@[simp] theorem fallingEdge_activeSegment : (fallingEdge p s).activeSegment = s.activeSegment := by unfold fallingEdge; split <;> rfl
@[simp] theorem fallingEdge_dig : (fallingEdge p s).dig = s.dig := by unfold fallingEdge; split <;> rfl
@[simp] theorem fallingEdge_seg : (fallingEdge p s).seg = s.seg := by unfold fallingEdge; split <;> rfl
@[simp] theorem fallingEdge_pwmCmp : (fallingEdge p s).pwmCmp = s.pwmCmp := by unfold fallingEdge; split <;> rfl
@[simp] theorem fallingEdge_pwmCnt : (fallingEdge p s).pwmCnt = s.pwmCnt := by unfold fallingEdge; split <;> rfl
@[simp] theorem fallingEdge_inputs : (fallingEdge p s).inputs = s.inputs := by unfold fallingEdge; split <;> rfl
@[simp] theorem fallingEdge_readResult : (fallingEdge p s).readResult = s.readResult := by unfold fallingEdge; split <;> rfl

end fallingEdge

section refreshTick

variable (p : Params) (s : State)

@[simp] theorem refreshTick_digits : (refreshTick p s).digits = s.digits := by unfold refreshTick; split <;> simp
@[simp] theorem refreshTick_displayedValue : (refreshTick p s).displayedValue = s.displayedValue := by unfold refreshTick; split <;> simp
@[simp] theorem refreshTick_enabled : (refreshTick p s).enabled = s.enabled := by unfold refreshTick; split <;> simp
@[simp] theorem refreshTick_edgePhase : (refreshTick p s).edgePhase = s.edgePhase := by unfold refreshTick; split <;> simp
@[simp] theorem refreshTick_lastPulseWidth : (refreshTick p s).lastPulseWidth = s.lastPulseWidth := by unfold refreshTick; split <;> simp
@[simp] theorem refreshTick_ccnt : (refreshTick p s).ccnt = s.ccnt := by unfold refreshTick; split <;> simp
@[simp] theorem refreshTick_pwmCmp : (refreshTick p s).pwmCmp = s.pwmCmp := by unfold refreshTick; split <;> simp
@[simp] theorem refreshTick_pwmCnt : (refreshTick p s).pwmCnt = s.pwmCnt := by unfold refreshTick; split <;> simp
@[simp] theorem refreshTick_inputs : (refreshTick p s).inputs = s.inputs := by unfold refreshTick; split <;> simp
@[simp] theorem refreshTick_readResult : (refreshTick p s).readResult = s.readResult := by unfold refreshTick; split <;> simp

end refreshTick

end Sys2Proof.Machine
end

