-- ==== Sys2Proof/Laws/Ops.lean ====
section
/-!
SUPPORT. The instance is in range; what each computation over the state gives, in numbers and bits; what each branching
update does; and what `exec` can answer, said once.
-/

namespace Sys2Proof.Machine

/-! ### The instance -/

/-- The instance's parameters are in the ranges the spec gives (00_scope.md R7 to R12), whatever the OPEN ones are. -/
theorem hw_inRange : hw.InRange where
  seg_zero := by simp [hw, hwSegTable]
  cnt_pos := by simp [hw]
  cnt_le := by simp [hw]
  fudge_lt := by
    have h := Config.clockFudgeAbove.isLt
    simp only [hw]
    omega
  pwm_ge := by simp [hw]
  pwm_le := by
    have h := Config.pwmBitsAbove.isLt
    simp only [hw]
    omega
  top_pos := by simp [hw]
  top_le := by
    have h := Config.pwmTopAbove.isLt
    simp only [hw]
    omega

@[simp] theorem hw_cntBits : hw.cntBits = 16 := rfl

/-! ### Operands -/

/-- SETPWM's range test is the spec's (30_encoding.md R76). -/
theorem fitsPwm_iff {p : Params} (hp : p.InRange) (d : Word) : fitsPwm p d = true ↔ d.toNat < 2 ^ p.pwmBits := by
  have h : 2 ^ 8 ≤ 2 ^ p.pwmBits := Nat.pow_le_pow_right (by decide) hp.pwm_ge
  simp only [fitsPwm, Bool.or_eq_true, decide_eq_true_eq]
  omega

/-- The test of the decoder and the check of the syntax agree (30_encoding.md R73, R76). -/
theorem fitsPwm_eq_wellFormed {p : Params} (hp : p.InRange) (d : Word) :
    fitsPwm p d = Instr.wellFormed p (.setpwm d) := by
  rw [Bool.eq_iff_iff, fitsPwm_iff hp]
  simp [Instr.wellFormed]

theorem clampValue_le (d : Word) : clampValue d ≤ 9999 := Nat.min_le_right _ _

@[simp] theorem decimalDigit_val (v i : Nat) : (decimalDigit v i).val = v / 10 ^ i % 10 := rfl

theorem onehot4_getLsbD (i j : Fin 4) : (onehot4 i).getLsbD j = decide (j = i) := by
  revert i j; decide

theorem segMask_getLsbD (i j : Fin 7) : (segMask i).getLsbD j = decide (j = i) := by
  revert i j; decide

/-! ### Digits and the register map -/

@[simp] theorem digit_digitsOf (v : Nat) (i : Fin 4) : (digit (digitsOf v) i).val = v / 10 ^ i.val % 10 := by
  match i with
  | 0 | 1 | 2 | 3 => rfl

theorem digit_ext {a b : Digits} (h : ∀ i, digit a i = digit b i) : a = b := by
  have h0 := h 0
  have h1 := h 1
  have h2 := h 2
  have h3 := h 3
  cases a
  cases b
  simp_all [digit]

theorem nibble_toNat (d : Fin 10) : (nibble d).toNat = d.val := by
  revert d; decide

/-- DIGITS as a number: each nibble is one digit (10_state.md R43). -/
theorem regDigits_toNat (s : State) :
    (regDigits s).toNat = s.digits.d0.val + 16 * s.digits.d1.val + 256 * s.digits.d2.val + 4096 * s.digits.d3.val := by
  have h0 := s.digits.d0.isLt
  have h1 := s.digits.d1.isLt
  have h2 := s.digits.d2.isLt
  have h3 := s.digits.d3.isLt
  simp only [regDigits, BitVec.toNat_append, nibble_toNat]
  repeat rw [Nat.shiftLeft_add_eq_or_of_lt (by omega) _ |>.symm]
  simp only [Nat.shiftLeft_eq]
  omega

/-- SCAN as a number: the digit index at bit 4, the segment index at bit 0 (10_state.md R44). -/
theorem regScan_toNat (s : State) : (regScan s).toNat = 16 * s.activeDigit.val + s.activeSegment.val := by
  have key : ∀ (d : Fin 4) (k : Fin 7),
      ((BitVec.ofNat 2 d.val ++ 0b0#1 ++ BitVec.ofNat 3 k.val).setWidth 16).toNat = 16 * d.val + k.val := by decide
  exact key _ _

/-! ### The display's strobe -/

theorem zeroFrom_iff (ds : Digits) (i : Fin 4) : zeroFrom ds i = true ↔ ∀ j, i ≤ j → digit ds j = 0 := by
  constructor
  · intro h j hij
    have hj : (decide (j < i) || decide (digit ds j = 0)) = true := by
      refine List.all_eq_true.mp h j ?_
      match j with
      | 0 | 1 | 2 | 3 => decide
    have hlt : ¬ j < i := Fin.not_lt.mpr hij
    simpa [hlt] using hj
  · intro h
    refine List.all_eq_true.mpr fun j _ => ?_
    rcases Fin.lt_or_le j i with hji | hij
    · simp [hji]
    · simp [h j hij]

/-- Zero blanking as the spec writes it (40_display.md R112). -/
theorem blank_iff (p : Params) (s : State) (i : Fin 4) :
    blank p s i = true ↔ p.blankPolicy = .leading ∧ 1 ≤ i.val ∧ ∀ j, i ≤ j → digit s.digits j = 0 := by
  simp only [blank, Bool.and_eq_true, decide_eq_true_eq, zeroFrom_iff]
  tauto

/-- What is shown depends on the digits alone. -/
theorem shown_congr {p : Params} {s t : State} (h : s.digits = t.digits) (i : Fin 4) : shown p s i = shown p t i := by
  unfold shown blank
  rw [h]

theorem advanceScan_activeSegment (s : State) :
    (advanceScan s).activeSegment = if s.activeSegment = 6 then 0 else s.activeSegment + 1 := by
  unfold advanceScan; split <;> rfl

theorem advanceScan_activeDigit (s : State) :
    (advanceScan s).activeDigit = if s.activeSegment = 6 then s.activeDigit + 1 else s.activeDigit := by
  unfold advanceScan; split <;> rfl

/-- The scan position as one number in 0..27, the order in which the ticks strobe (40_display.md R110, R113). -/
def scanPos (s : State) : Nat := 7 * s.activeDigit.val + s.activeSegment.val

/-- One advance moves the position on by one, modulo 28 (40_display.md R110). -/
theorem scanPos_advanceScan (s : State) : scanPos (advanceScan s) = (scanPos s + 1) % 28 := by
  have key : ∀ (d : Fin 4) (k : Fin 7),
      7 * (if k = 6 then d + 1 else d).val + (if k = 6 then 0 else k + 1).val = (7 * d.val + k.val + 1) % 28 := by decide
  simp only [scanPos, advanceScan_activeDigit, advanceScan_activeSegment]
  exact key _ _

theorem refreshTick_off {p : Params} {s : State} (h : s.enabled = false) : refreshTick p s = s := by
  simp [refreshTick, h]

theorem refreshTick_on {p : Params} {s : State} (h : s.enabled = true) :
    refreshTick p s = advanceScan (strobeC p (strobeB (strobeA s))) := by
  simp [refreshTick, h]

theorem refreshTick_dig {p : Params} {s : State} (h : s.enabled = true) :
    (refreshTick p s).dig = onehot4 s.activeDigit := by
  simp [refreshTick_on h]

theorem refreshTick_seg {p : Params} {s : State} (h : s.enabled = true) :
    (refreshTick p s).seg = shown p s s.activeDigit &&& segMask s.activeSegment := by
  simp only [refreshTick_on h, advanceScan_seg, strobeC_seg, strobeB_activeDigit, strobeB_activeSegment,
    strobeA_activeDigit, strobeA_activeSegment]
  rw [shown_congr (t := s) (by simp)]

theorem refreshTick_activeSegment {p : Params} {s : State} (h : s.enabled = true) :
    (refreshTick p s).activeSegment = if s.activeSegment = 6 then 0 else s.activeSegment + 1 := by
  rw [refreshTick_on h, advanceScan_activeSegment]
  rfl

theorem refreshTick_activeDigit {p : Params} {s : State} (h : s.enabled = true) :
    (refreshTick p s).activeDigit = if s.activeSegment = 6 then s.activeDigit + 1 else s.activeDigit := by
  rw [refreshTick_on h, advanceScan_activeDigit]
  rfl

theorem scanPos_refreshTick {p : Params} {s : State} (h : s.enabled = true) :
    scanPos (refreshTick p s) = (scanPos s + 1) % 28 := by
  rw [refreshTick_on h, scanPos_advanceScan]
  rfl

/-! ### The counters and the measured width -/

/-- The capture counter wraps at `2^CNT_BITS` (41_capture.md R132). -/
theorem ccntInc_toNat {p : Params} (hp : p.InRange) (c : Word) :
    (ccntInc p c).toNat = (c.toNat + 1) % 2 ^ p.cntBits := by
  have h : 2 ^ p.cntBits ≤ 2 ^ 16 := Nat.pow_le_pow_right (by decide) hp.cnt_le
  have hpos : 0 < 2 ^ p.cntBits := Nat.two_pow_pos _
  have hlt := Nat.mod_lt (c.toNat + 1) hpos
  simp only [ccntInc, BitVec.toNat_ofNat]
  exact Nat.mod_eq_of_lt (by omega)

/-- The measured width, over the integers, modulo `2^CNT_BITS` (41_capture.md R131). -/
theorem pulseWidth_toNat {p : Params} (hp : p.InRange) (c : Word) :
    ((pulseWidth p c).toNat : Int) = ((c.toNat : Int) + p.clockFudge) % (2 : Int) ^ p.cntBits := by
  have h : 2 ^ p.cntBits ≤ 2 ^ 16 := Nat.pow_le_pow_right (by decide) hp.cnt_le
  have hpos : (0 : Int) < (2 : Int) ^ p.cntBits := by positivity
  have h0 := Int.emod_nonneg ((c.toNat : Int) + p.clockFudge) (ne_of_gt hpos)
  have h1 := Int.emod_lt_of_pos ((c.toNat : Int) + p.clockFudge) hpos
  have hcast : (2 : Int) ^ p.cntBits ≤ 2 ^ 16 := by exact_mod_cast h
  simp only [pulseWidth, BitVec.toNat_ofNat]
  rw [Nat.mod_eq_of_lt (by omega), Int.toNat_of_nonneg h0]

theorem risingEdge_armed {s : State} (h : s.edgePhase = .armedRising) : risingEdge s = acceptEdge .armedFalling s := by
  simp [risingEdge, h]

theorem risingEdge_ignored {s : State} (h : s.edgePhase = .armedFalling) : risingEdge s = s := by
  simp [risingEdge, h]

theorem fallingEdge_armed {p : Params} {s : State} (h : s.edgePhase = .armedFalling) :
    fallingEdge p s = { acceptEdge .armedRising s with lastPulseWidth := pulseWidth p s.ccnt } := by
  simp [fallingEdge, h]

theorem fallingEdge_ignored {p : Params} {s : State} (h : s.edgePhase = .armedRising) : fallingEdge p s = s := by
  simp [fallingEdge, h]

/-- The PWM counter stays within its period (42_pwm.md R152). -/
theorem pwmCntInc_le {p : Params} {n : Nat} (h : n ≤ p.pwmTop) : pwmCntInc p n ≤ p.pwmTop := by
  unfold pwmCntInc
  split <;> omega

/-- The PWM counter counts modulo `PWM_TOP + 1` (42_pwm.md R152). -/
theorem pwmCntInc_eq_mod {p : Params} {n : Nat} (h : n ≤ p.pwmTop) : pwmCntInc p n = (n + 1) % (p.pwmTop + 1) := by
  unfold pwmCntInc
  split
  · next he => rw [he, Nat.mod_self]
  · rw [Nat.mod_eq_of_lt (by omega)]

end Sys2Proof.Machine
end

