-- ==== Sys2Proof/Laws/Decode.lean ====
section
/-!
SUPPORT. A step word as a number, its fields as numbers, the fields of the words built from fields (30_encoding.md R70 to
R72), and the word as its fields.
-/

namespace Sys2Proof.Machine

section numbers

variable (w : StepWord)

/-- `W` as a number (30_encoding.md R70). -/
theorem wField_eq : wField w = decide (w.toNat / 2 ^ 23 % 2 = 1) := by
  simp [wField, BitVec.getLsbD, Nat.testBit_eq_decide_div_mod_eq]

theorem clsField_toNat : (clsField w).toNat = w.toNat / 2 ^ 20 % 2 ^ 3 := by
  simp [clsField, BitVec.extractLsb'_toNat, Nat.shiftRight_eq_div_pow]

theorem aField_toNat : (aField w).toNat = w.toNat / 2 ^ 16 % 2 ^ 4 := by
  simp [aField, BitVec.extractLsb'_toNat, Nat.shiftRight_eq_div_pow]

theorem dField_toNat : (dField w).toNat = w.toNat % 2 ^ 16 := by
  simp [dField, BitVec.extractLsb'_toNat]

/-- A step word is its four fields (30_encoding.md R70). -/
theorem toNat_eq_fields :
    w.toNat = 2 ^ 23 * (wField w).toNat + 2 ^ 20 * (clsField w).toNat + 2 ^ 16 * (aField w).toNat + (dField w).toNat := by
  have h := w.isLt
  rw [wField_eq, clsField_toNat, aField_toNat, dField_toNat]
  by_cases hw : w.toNat / 2 ^ 23 % 2 = 1
  · rw [decide_eq_true hw, Bool.toNat_true]
    omega
  · rw [decide_eq_false hw, Bool.toNat_false]
    omega

end numbers

section built

variable (a : Index) (d : Word)

theorem append_toNat (h : BitVec 4) : (h ++ a ++ d).toNat = 2 ^ 20 * h.toNat + 2 ^ 16 * a.toNat + d.toNat := by
  have ha := a.isLt
  have hd := d.isLt
  rw [BitVec.toNat_append, BitVec.toNat_append, ← Nat.shiftLeft_add_eq_or_of_lt hd, ← Nat.shiftLeft_add_eq_or_of_lt ha,
    Nat.shiftLeft_eq, Nat.shiftLeft_eq]
  omega

/-- `HostWrite(A, D)` is `0x800000 | (A << 16) | D` (30_encoding.md R71). -/
theorem hostWriteWord_toNat : (hostWriteWord a d).toNat = 0x800000 + 2 ^ 16 * a.toNat + d.toNat :=
  append_toNat a d 0b1000#4

/-- `HostRead(A)` is `A << 16` (30_encoding.md R71). -/
theorem hostReadWord_toNat : (hostReadWord a).toNat = 2 ^ 16 * a.toNat := by
  have h := append_toNat a 0x0000#16 0b0000#4
  change (hostReadWord a).toNat = _ at h
  rw [h]
  exact (Nat.zero_add _)

/-- An event is `0x100000 | (E << 16) | D` (30_encoding.md R72). -/
theorem eventWord_toNat : (eventWord a d).toNat = 0x100000 + 2 ^ 16 * a.toNat + d.toNat :=
  append_toNat a d 0b0001#4

@[simp] theorem wField_hostWriteWord : wField (hostWriteWord a d) = true := by
  have ha := a.isLt
  have hd := d.isLt
  rw [wField_eq, hostWriteWord_toNat, decide_eq_true_eq]
  omega

@[simp] theorem clsField_hostWriteWord : clsField (hostWriteWord a d) = 0 := by
  have ha := a.isLt
  have hd := d.isLt
  apply BitVec.eq_of_toNat_eq
  rw [clsField_toNat, hostWriteWord_toNat, show BitVec.toNat (0 : BitVec 3) = 0 from rfl]
  omega

@[simp] theorem aField_hostWriteWord : aField (hostWriteWord a d) = a := by
  have ha := a.isLt
  have hd := d.isLt
  apply BitVec.eq_of_toNat_eq
  rw [aField_toNat, hostWriteWord_toNat]
  omega

@[simp] theorem dField_hostWriteWord : dField (hostWriteWord a d) = d := by
  have ha := a.isLt
  have hd := d.isLt
  apply BitVec.eq_of_toNat_eq
  rw [dField_toNat, hostWriteWord_toNat]
  omega

@[simp] theorem wField_hostReadWord : wField (hostReadWord a) = false := by
  have ha := a.isLt
  rw [wField_eq, hostReadWord_toNat, decide_eq_false_iff_not]
  omega

@[simp] theorem clsField_hostReadWord : clsField (hostReadWord a) = 0 := by
  have ha := a.isLt
  apply BitVec.eq_of_toNat_eq
  rw [clsField_toNat, hostReadWord_toNat, show BitVec.toNat (0 : BitVec 3) = 0 from rfl]
  omega

@[simp] theorem aField_hostReadWord : aField (hostReadWord a) = a := by
  have ha := a.isLt
  apply BitVec.eq_of_toNat_eq
  rw [aField_toNat, hostReadWord_toNat]
  omega

@[simp] theorem dField_hostReadWord : dField (hostReadWord a) = 0 := by
  have ha := a.isLt
  apply BitVec.eq_of_toNat_eq
  rw [dField_toNat, hostReadWord_toNat, show BitVec.toNat (0 : BitVec 16) = 0 from rfl]
  omega

@[simp] theorem wField_eventWord : wField (eventWord a d) = false := by
  have ha := a.isLt
  have hd := d.isLt
  rw [wField_eq, eventWord_toNat, decide_eq_false_iff_not]
  omega

@[simp] theorem clsField_eventWord : clsField (eventWord a d) = 1 := by
  have ha := a.isLt
  have hd := d.isLt
  apply BitVec.eq_of_toNat_eq
  rw [clsField_toNat, eventWord_toNat, show BitVec.toNat (1 : BitVec 3) = 1 from rfl]
  omega

@[simp] theorem aField_eventWord : aField (eventWord a d) = a := by
  have ha := a.isLt
  have hd := d.isLt
  apply BitVec.eq_of_toNat_eq
  rw [aField_toNat, eventWord_toNat]
  omega

@[simp] theorem dField_eventWord : dField (eventWord a d) = d := by
  have ha := a.isLt
  have hd := d.isLt
  apply BitVec.eq_of_toNat_eq
  rw [dField_toNat, eventWord_toNat]
  omega

end built

end Sys2Proof.Machine
end

