-- ==== Sys2Proof/Laws/Exec.lean ====
section
/-!
SUPPORT. What `exec` can answer, said once: `effect i s` is the state after operation `i`, and `exec` answers it exactly for
the operations of the instance. The same for runs, and the one induction over a run that the whole-machine claims need.
-/

namespace Sys2Proof.Machine

/-- The state after an operation, as a total function. -/
def effect (i : Instr) (s : State) : State :=
  match i with
  | .enable => quiet (setEnabled true s)
  | .disable => quiet (blankOutputs (setEnabled false s))
  | .rdCtrl => respond (regCtrl s) s
  | .setval d => quiet (storeValue (clampValue d) s)
  | .rdValue => respond (regValue s) s
  | .rdDigits => respond (regDigits s) s
  | .rdScan => respond (regScan s) s
  | .rdCapw => respond (regCapw s) s
  | .rdCaps => respond (regCaps s) s
  | .setpwm d => quiet (writeCompare d s)
  | .rdPwmc => respond (regPwmc s) s
  | .tick => quiet (refreshTick hw s)
  | .ctick => quiet (countCapture hw s)
  | .ptick => quiet (countPwm hw s)
  | .edgeR => quiet (risingEdge s)
  | .edgeF => quiet (fallingEdge hw s)
  | .reset => quiet (resetBlock s)

/-- `exec` answers the effect of every operation of the instance, and refuses the one that is none
(60_exceptions.md R200; 30_encoding.md R78). -/
theorem exec_eq (i : Instr) (s : State) :
    exec i s = if i.wellFormed hw then .next (effect i s) else .refused (.reservedWord .pwmcReservedBits) := by
  cases i with
  | setpwm d =>
    change (if fitsPwm hw d then _ else _) = _
    rw [fitsPwm_eq_wellFormed hw_inRange]
    rfl
  | _ => rfl

theorem exec_next {i : Instr} (h : i.wellFormed hw = true) (s : State) : exec i s = .next (effect i s) := by
  rw [exec_eq, if_pos h]

/-- Everything `exec` can do when it answers a next state. -/
theorem exec_cases {i : Instr} {s t : State} (h : exec i s = .next t) : i.wellFormed hw = true ∧ t = effect i s := by
  rw [exec_eq] at h
  split at h
  · next hw' => exact ⟨hw', by injection h with h; exact h.symm⟩
  · cases h

theorem runOps_nil (s : State) : runOps [] s = .next s := rfl

theorem runOps_cons {i : Instr} (h : i.wellFormed hw = true) (ops : List Instr) (s : State) :
    runOps (i :: ops) s = runOps ops (effect i s) := by
  simp only [runOps, exec_next h]

/-- Everything a run of operations can do when it answers a next state. -/
theorem runOps_cases {ops : List Instr} {s t : State} (h : runOps ops s = .next t) :
    (∀ i ∈ ops, i.wellFormed hw = true) ∧ t = ops.foldl (fun u i => effect i u) s := by
  induction ops generalizing s with
  | nil =>
    injection h with h
    exact ⟨by simp, h.symm⟩
  | cons i rest ih =>
    by_cases hi : i.wellFormed hw = true
    · rw [runOps_cons hi] at h
      obtain ⟨hall, ht⟩ := ih h
      exact ⟨List.forall_mem_cons.mpr ⟨hi, hall⟩, ht⟩
    · simp only [runOps, exec_eq, if_neg hi] at h
      cases h

/-- A run of the instance's operations answers the fold of their effects. -/
theorem runOps_next {ops : List Instr} (h : ∀ i ∈ ops, i.wellFormed hw = true) (s : State) :
    runOps ops s = .next (ops.foldl (fun u i => effect i u) s) := by
  induction ops generalizing s with
  | nil => rfl
  | cons i rest ih =>
    obtain ⟨hi, hrest⟩ := List.forall_mem_cons.mp h
    rw [runOps_cons hi, ih hrest]
    rfl

/-- The induction over a run: what every operation of it keeps, the run keeps. -/
theorem runOps_keeps {P : State → Prop} {ops : List Instr}
    (keep : ∀ i ∈ ops, ∀ s, P s → P (effect i s)) {s t : State} (h : runOps ops s = .next t) (hs : P s) : P t := by
  induction ops generalizing s with
  | nil =>
    injection h with h
    exact h ▸ hs
  | cons i rest ih =>
    obtain ⟨hwf, -⟩ := runOps_cases h
    rw [runOps_cons (hwf i (List.mem_cons_self ..))] at h
    exact ih (fun j hj => keep j (List.mem_cons_of_mem _ hj)) h (keep i (List.mem_cons_self ..) s hs)

@[simp] theorem acceptsNoFallingEdge_nil (s : State) : AcceptsNoFallingEdge [] s := trivial

/-- A list of the instance's operations accepts no falling edge when its first does not and the rest, from the state after it,
does not. -/
theorem acceptsNoFallingEdge_cons {i : Instr} (h : i.wellFormed hw = true) (ops : List Instr) (s : State) :
    AcceptsNoFallingEdge (i :: ops) s ↔
      (i = .edgeF → s.edgePhase = .armedRising) ∧ AcceptsNoFallingEdge ops (effect i s) := by
  simp [AcceptsNoFallingEdge, exec_next h]

/-- The step words still to arrive are no operation's to change. -/
@[simp] theorem effect_inputs (i : Instr) (s : State) : (effect i s).inputs = s.inputs := by
  cases i <;> simp [effect]

/-! ### Host accesses in a run -/

theorem feedAccess_ok {x : HostAccess} {w : StepWord} (h : stepWordOf hw x = .ok w) (r : Run) :
    feedAccess r x = feed r w := by
  simp only [feedAccess, h]

theorem feedAccess_error {x : HostAccess} {e : NoStepWord} (h : stepWordOf hw x = .error e) (r : Run) :
    feedAccess r x = { r with refused := true } := by
  simp only [feedAccess, h]

/-! ### The block's own part of a state -/

section block

variable (s : State)

@[simp] theorem block_digits : s.block.digits = s.digits := rfl
@[simp] theorem block_displayedValue : s.block.displayedValue = s.displayedValue := rfl
@[simp] theorem block_enabled : s.block.enabled = s.enabled := rfl
@[simp] theorem block_activeDigit : s.block.activeDigit = s.activeDigit := rfl
@[simp] theorem block_activeSegment : s.block.activeSegment = s.activeSegment := rfl
@[simp] theorem block_dig : s.block.dig = s.dig := rfl
@[simp] theorem block_seg : s.block.seg = s.seg := rfl
@[simp] theorem block_edgePhase : s.block.edgePhase = s.edgePhase := rfl
@[simp] theorem block_lastPulseWidth : s.block.lastPulseWidth = s.lastPulseWidth := rfl
@[simp] theorem block_ccnt : s.block.ccnt = s.ccnt := rfl
@[simp] theorem block_pwmCmp : s.block.pwmCmp = s.pwmCmp := rfl
@[simp] theorem block_pwmCnt : s.block.pwmCnt = s.pwmCnt := rfl
@[simp] theorem block_inputs : s.block.inputs = [] := rfl
@[simp] theorem block_readResult : s.block.readResult = none := rfl
@[simp] theorem block_quiet : (quiet s).block = s.block := rfl
@[simp] theorem block_respond (v : Word) : (respond v s).block = s.block := rfl
@[simp] theorem block_resetBlock : (resetBlock s).block = State.reset := rfl

end block

end Sys2Proof.Machine
end

