-- ==== Sys2Proof/Laws/PerInstr.lean ====
section
/-!
SUPPORT. Statements made for each operation by name. `WordFields`: the class and the write bit of an operation's step word say
which agent sends it and whether it is a host write, and a read's data field is zero (30_encoding.md R70 to R72).
-/

namespace Sys2Proof.Laws.WordFields

open Machine

/-- What the fields of the step word of `i` say. -/
def Statement (i : Instr) : Prop :=
  clsField (encode i) = (if agentOf i = .host then 0 else 1) ∧
    wField (encode i) = (decide (agentOf i = .host) && !isRead i) ∧
    (isRead i = true → dField (encode i) = 0)

theorem ofWrite {i : Instr} {a : Index} {d : Word} (h : encode i = hostWriteWord a d) (hi : agentOf i = .host)
    (hr : isRead i = false) : Statement i := by
  simp [Statement, h, hi, hr]

theorem ofRead {i : Instr} {a : Index} (h : encode i = hostReadWord a) (hi : agentOf i = .host) (hr : isRead i = true) :
    Statement i := by
  simp [Statement, h, hi, hr]

theorem ofEvent {i : Instr} {e : Index} {d : Word} (h : encode i = eventWord e d) (hi : agentOf i ≠ .host)
    (hr : isRead i = false) : Statement i := by
  simp [Statement, h, hi, hr]

theorem enable : Statement .enable := ofWrite rfl rfl rfl

theorem disable : Statement .disable := ofWrite rfl rfl rfl

theorem rdCtrl : Statement .rdCtrl := ofRead rfl rfl rfl

theorem setval (d : Word) : Statement (.setval d) := ofWrite rfl rfl rfl

theorem rdValue : Statement .rdValue := ofRead rfl rfl rfl

theorem rdDigits : Statement .rdDigits := ofRead rfl rfl rfl

theorem rdScan : Statement .rdScan := ofRead rfl rfl rfl

theorem rdCapw : Statement .rdCapw := ofRead rfl rfl rfl

theorem rdCaps : Statement .rdCaps := ofRead rfl rfl rfl

theorem setpwm (d : Word) : Statement (.setpwm d) := ofWrite rfl rfl rfl

theorem rdPwmc : Statement .rdPwmc := ofRead rfl rfl rfl

theorem tick : Statement .tick := ofEvent rfl (by decide) rfl

theorem ctick : Statement .ctick := ofEvent rfl (by decide) rfl

theorem ptick : Statement .ptick := ofEvent rfl (by decide) rfl

theorem edgeR : Statement .edgeR := ofEvent rfl (by decide) rfl

theorem edgeF : Statement .edgeF := ofEvent rfl (by decide) rfl

theorem reset : Statement .reset := ofEvent rfl (by decide) rfl

end Sys2Proof.Laws.WordFields
end

