-- ==== Sys2Proof/Tests/Slice0.lean ====
section
/-!
SUPPORT. The model's own tests. The words are written out from 30_encoding.md R70 to R75, the results are those of
95_test_vectors.md (each test names its vector). Where a vector gives a parameter the hardware leaves OPEN, the test is of
the shared operation with that parameter. After the tests, for each obligation with hypotheses, values that meet them.
-/

namespace Sys2Proof.Tests

open Sys2Proof Sys2Proof.Machine

/-! ### Helpers -/

/-- The state a step answers. -/
def answer (o : Host.Outcome State Fault Refusal) : Option State :=
  match o with
  | .next t => some t
  | .fault _ => none
  | .refused _ => none

/-- The reason a step is refused. -/
def refusal (o : Host.Outcome State Fault Refusal) : Option Refusal :=
  match o with
  | .next _ => none
  | .fault _ => none
  | .refused r => some r

/-- The display with value 1234, at scan position `(d, k)`. -/
def showing1234 (d : Fin 4) (k : Fin 7) : State :=
  { State.reset with digits := ⟨4, 3, 2, 1⟩, displayedValue := 1234, enabled := true, activeDigit := d, activeSegment := k }

/-- The capture unit in a phase, with a count. -/
def capturing (e : EdgePhase) (c : Word) : State := { State.reset with edgePhase := e, ccnt := c }

/-- The PWM channel with a compare value and a count. -/
def driving (c : Word) (n : Nat) : State := { State.reset with pwmCmp := c, pwmCnt := n }

/-- The test vectors' parameters with a capture width and a correction. -/
def captureParams (bits : Nat) (fudge : Int) : Params :=
  { Config.vectorParams with cntBits := bits, clockFudge := fudge }

/-- The test vectors' parameters with leading zeros blanked. -/
def leadingParams : Params := { Config.vectorParams with blankPolicy := .leading }

/-- The test vectors' parameters with `PWM_TOP = 7`. -/
def top7Params : Params := { Config.vectorParams with pwmTop := 7 }

/-! ### Which operations exist (30_encoding.md R73, R76) -/

theorem test_wellFormed_refuses_setpwm_256 : Instr.wellFormed Config.vectorParams (.setpwm 256#16) = false := by decide
theorem test_wellFormed_takes_setpwm_255 : Instr.wellFormed Config.vectorParams (.setpwm 255#16) = true := by decide

/-! ### Decoding: each word as `W CLS A D` -/

theorem test_decode_enable : decode hw 0b1_000_0000_0000000000000001#24 = .ok .enable := by decide
theorem test_decode_disable : decode hw 0b1_000_0000_0000000000000000#24 = .ok .disable := by decide
theorem test_decode_rdCtrl : decode hw 0b0_000_0000_0000000000000000#24 = .ok .rdCtrl := by decide
theorem test_decode_setval : decode hw 0b1_000_0001_0000010011010010#24 = .ok (.setval 1234#16) := by decide
theorem test_decode_rdValue : decode hw 0b0_000_0001_0000000000000000#24 = .ok .rdValue := by decide
theorem test_decode_rdDigits : decode hw 0b0_000_0010_0000000000000000#24 = .ok .rdDigits := by decide
theorem test_decode_rdScan : decode hw 0b0_000_0011_0000000000000000#24 = .ok .rdScan := by decide
theorem test_decode_rdCapw : decode hw 0b0_000_0100_0000000000000000#24 = .ok .rdCapw := by decide
theorem test_decode_rdCaps : decode hw 0b0_000_0101_0000000000000000#24 = .ok .rdCaps := by decide
theorem test_decode_setpwm : decode hw 0b1_000_0110_0000000010000000#24 = .ok (.setpwm 128#16) := by decide
theorem test_decode_rdPwmc : decode hw 0b0_000_0110_0000000000000000#24 = .ok .rdPwmc := by decide
theorem test_decode_tick : decode hw 0b0_001_0000_0000000000000000#24 = .ok .tick := by decide
theorem test_decode_ctick : decode hw 0b0_001_0001_0000000000000000#24 = .ok .ctick := by decide
theorem test_decode_ptick : decode hw 0b0_001_0010_0000000000000000#24 = .ok .ptick := by decide
theorem test_decode_edgeR : decode hw 0b0_001_0011_0000000000000000#24 = .ok .edgeR := by decide
theorem test_decode_edgeF : decode hw 0b0_001_0011_0000000000000001#24 = .ok .edgeF := by decide
theorem test_decode_reset : decode hw 0b0_001_0100_0000000000000000#24 = .ok .reset := by decide

/-- The refused words of 95_test_vectors.md, section 2.5, that are host accesses. -/
theorem test_decode_refuses_host_words :
    decode hw 0x800002#24 = .error .ctrlReservedBits ∧ decode hw 0x820000#24 = .error .writeReadOnly ∧
      decode hw 0x830000#24 = .error .writeReadOnly ∧ decode hw 0x840000#24 = .error .writeReadOnly ∧
      decode hw 0x850001#24 = .error .writeReadOnly ∧ decode hw 0x870000#24 = .error .writeReservedRegister ∧
      decode hw 0x8F1234#24 = .error .writeReservedRegister ∧ decode hw 0x070000#24 = .error .readReservedRegister ∧
      decode hw 0x000001#24 = .error .readNonzeroData := by decide

/-- The refused words of section 2.5 that are events or of a reserved class. -/
theorem test_decode_refuses_other_words :
    decode hw 0x900000#24 = .error .eventWithW ∧ decode hw 0x150000#24 = .error .reservedEvent ∧
      decode hw 0x100001#24 = .error .reservedEvent ∧ decode hw 0x140001#24 = .error .reservedEvent ∧
      decode hw 0x130002#24 = .error .reservedEvent ∧ decode hw 0x200000#24 = .error .reservedClass ∧
      decode hw 0x700000#24 = .error .reservedClass := by decide

/-- V-P9: with `PWM_BITS = 8`, the word of SETPWM #256 is reserved. -/
theorem test_decode_refuses_setpwm_256 :
    decode Config.vectorParams 0x860100#24 = .error .pwmcReservedBits := by decide

/-- V-P11: with `PWM_BITS = 10`, SETPWM #1000 is accepted. -/
theorem test_decode_setpwm_1000 :
    decode { Config.vectorParams with pwmBits := 10 } 0x8603E8#24 = .ok (.setpwm 1000#16) := by decide

/-! ### The display -/

/-- V-D1. -/
theorem test_enable : answer (exec .enable State.reset) = some { State.reset with enabled := true } := by decide

/-- V-D4. -/
theorem test_enable_twice : answer (exec .enable (showing1234 2 5)) = some (showing1234 2 5) := by decide

/-- V-D2. -/
theorem test_disable :
    answer (exec .disable { State.reset with enabled := true, dig := 0b0010, seg := 0b0000001, activeDigit := 1, activeSegment := 1 }) =
      some { State.reset with activeDigit := 1, activeSegment := 1 } := by decide

/-- V-D1, V-D5. -/
theorem test_rdCtrl :
    (answer (exec .rdCtrl (showing1234 0 0))).map State.readResult = some (some 0x0001#16) ∧
      (answer (exec .rdCtrl State.reset)).map State.readResult = some (some 0x0000#16) := by decide

/-- V-D10. -/
theorem test_setval_clamps :
    answer (exec (.setval 12345#16) State.reset) =
      some { State.reset with digits := ⟨9, 9, 9, 9⟩, displayedValue := 9999 } := by decide

/-- V-D13. -/
theorem test_setval_keeps_the_outputs :
    answer (exec (.setval 5#16) { showing1234 2 4 with dig := 0b0100, seg := 0b0001000 }) =
      some { showing1234 2 4 with dig := 0b0100, seg := 0b0001000, digits := ⟨5, 0, 0, 0⟩, displayedValue := 5 } := by decide

/-- V-D7. -/
theorem test_rdValue : (answer (exec .rdValue (showing1234 0 0))).map State.readResult = some (some 0x04D2#16) := by decide

/-- V-D7. -/
theorem test_rdDigits : (answer (exec .rdDigits (showing1234 0 0))).map State.readResult = some (some 0x1234#16) := by decide

/-- V-D15, V-D17. -/
theorem test_rdScan :
    (answer (exec .rdScan (showing1234 1 1))).map State.readResult = some (some 0x0011#16) ∧
      (answer (exec .rdScan (showing1234 3 6))).map State.readResult = some (some 0x0036#16) := by decide

/-- V-T1, and S9 on the instance itself: with a 0 in the units, the middle bar is dark and the bottom one is lit. -/
theorem test_tick :
    answer (exec .tick { State.reset with activeDigit := 1, activeSegment := 3 }) =
        some { State.reset with activeDigit := 1, activeSegment := 3 } ∧
      answer (exec .tick { State.reset with enabled := true, activeSegment := 3 }) =
        some { State.reset with enabled := true, activeSegment := 4, dig := 0b0001, seg := 0x08 } ∧
      answer (exec .tick { State.reset with enabled := true, activeSegment := 6 }) =
        some { State.reset with enabled := true, activeDigit := 1, dig := 0b0001, seg := 0x00 } := by decide

/-- V-T6, V-T8, V-T4, V-T7. -/
theorem test_refreshTick :
    refreshTick Config.vectorParams (showing1234 2 4) = { showing1234 2 5 with dig := 0b0100, seg := 0x10 } ∧
      (refreshTick Config.vectorParams { showing1234 3 1 with dig := 0b0100 }).dig = 0b1000 ∧
      refreshTick Config.vectorParams (showing1234 0 6) = { showing1234 1 0 with dig := 0b0001, seg := 0x40 } ∧
      refreshTick Config.vectorParams (showing1234 3 6) = { showing1234 0 0 with dig := 0b1000, seg := 0x00 } := by decide

/-- V-B5, V-B2, V-B7. -/
theorem test_shown :
    (List.finRange 4).map (shown leadingParams (storeValue 1005 State.reset)) = [0x6D, 0x3F, 0x3F, 0x06] ∧
      (List.finRange 4).map (shown leadingParams State.reset) = [0x3F, 0x00, 0x00, 0x00] ∧
      (List.finRange 4).map (shown Config.vectorParams (storeValue 7 State.reset)) = [0x07, 0x3F, 0x3F, 0x3F] := by decide

/-! ### The capture unit -/

/-- V-C1 (with a count that must go), V-C2. -/
theorem test_edgeR :
    answer (exec .edgeR (capturing .armedRising 9)) = some (capturing .armedFalling 0) ∧
      answer (exec .edgeR (capturing .armedFalling 42)) = some (capturing .armedFalling 42) := by decide

/-- V-C3. -/
theorem test_edgeF_ignored :
    answer (exec .edgeF (capturing .armedRising 9)) = some (capturing .armedRising 9) := by decide

/-- V-C5, V-C8, V-C9, V-C17. -/
theorem test_fallingEdge :
    fallingEdge (captureParams 16 3) (capturing .armedFalling 100) =
        { capturing .armedRising 0 with lastPulseWidth := 0x0067 } ∧
      (fallingEdge (captureParams 16 (-2)) (capturing .armedFalling 1)).lastPulseWidth = 0xFFFF ∧
      (fallingEdge (captureParams 16 1) (capturing .armedFalling 0xFFFF)).lastPulseWidth = 0x0000 ∧
      (fallingEdge (captureParams 8 10) (capturing .armedFalling 250)).lastPulseWidth = 0x0004 := by decide

/-- V-C10, V-C11. -/
theorem test_ctick :
    answer (exec .ctick (capturing .armedFalling 0xFFFF)) = some (capturing .armedFalling 0) ∧
      answer (exec .ctick (capturing .armedRising 7)) = some (capturing .armedRising 8) := by decide

/-- V-C16: the width of the last pulse while the next one runs. -/
theorem test_rdCapw :
    (answer (exec .rdCapw { capturing .armedFalling 30 with lastPulseWidth := 100 })).map State.readResult =
      some (some 0x0064#16) := by decide

/-- V-C1, V-C15. -/
theorem test_rdCaps :
    (answer (exec .rdCaps (capturing .armedFalling 0))).map State.readResult = some (some 0x0001#16) ∧
      (answer (exec .rdCaps State.reset)).map State.readResult = some (some 0x0000#16) := by decide

/-! ### The PWM channel -/

/-- V-P6. -/
theorem test_setpwm :
    pwmOut (driving 3 5) = false ∧ answer (exec (.setpwm 6#16) (driving 3 5)) = some (driving 6 5) ∧
      pwmOut (driving 6 5) = true := by decide

/-- V-P10. -/
theorem test_rdPwmc :
    (answer (exec .rdPwmc (driving 128 0))).map State.readResult = some (some 0x0080#16) := by decide

/-- V-P2, V-P3. -/
theorem test_countPwm :
    countPwm top7Params (driving 3 2) = driving 3 3 ∧ pwmOut (driving 3 3) = false ∧
      countPwm top7Params (driving 3 7) = driving 3 0 ∧ pwmOut (driving 3 0) = true := by decide

/-! ### Reset -/

/-- V-R1. -/
theorem test_reset :
    answer (exec .reset
      { showing1234 2 3 with
        dig := 0b0100, seg := 0x04, edgePhase := .armedFalling, lastPulseWidth := 77, ccnt := 5, pwmCmp := 9, pwmCnt := 4 }) =
      some State.reset := by decide

/-! ### Steps, runs and the host's side -/

theorem test_decodeTableWord :
    decodeTableWord 24 0x8104D2 = some (.setval 1234#16) ∧ decodeTableWord 24 0x820000 = none := by decide

theorem test_step_runs_the_word_placed :
    answer (step (State.reset.withFetchWord 24 0x8104D2)) =
      some { State.reset with digits := ⟨4, 3, 2, 1⟩, displayedValue := 1234 } := by decide

theorem test_step_refuses_a_reserved_word :
    refusal (step (State.reset.withFetchWord 24 0x830000)) = some (.reservedWord .writeReadOnly) := by decide

/-- 95_test_vectors.md P5, line 12: the state stays, the run is marked, and the mark stays. -/
theorem test_feed_marks_the_run :
    feedAll powerUp [0x830000#24, 0x050000#24] = ⟨{ State.reset with readResult := some 0 }, [0], true⟩ := by decide

/-- 20_memory.md R50, R52, R53: register 6 is at offset 12; a byte access and an odd offset have no step word. -/
theorem test_stepWordOf :
    stepWordOf Config.vectorParams ⟨true, 12, 2, 128#16⟩ = .ok 0x860080#24 ∧
      stepWordOf Config.vectorParams ⟨false, 30, 2, 0⟩ = .ok 0x0F0000#24 ∧
      stepWordOf Config.vectorParams ⟨false, 12, 1, 0⟩ = .error .width ∧
      stepWordOf Config.vectorParams ⟨false, 13, 2, 0⟩ = .error .misaligned ∧
      stepWordOf Config.vectorParams ⟨false, 32, 2, 0⟩ = .error .outsideWindow := by decide

/-- 93_implementation_defined.md V11: a byte access, delivered anyway, is refused; the mark is the model's choice (log 18). -/
theorem test_feedAccess_refuses_a_byte_access :
    feedAccess powerUp ⟨true, 0, 1, 1⟩ = ⟨State.reset, [], true⟩ := by decide

/-- Lines of the programs of 95_test_vectors.md and the words beside them. -/
theorem test_assembleLine :
    assembleLine Config.vectorParams "SETPWM #200".toList = .ok [.word 0x8600C8#24] ∧
      assembleLine Config.vectorParams "EDGE.F".toList = .ok [.word 0x130001#24] ∧
      assembleLine Config.vectorParams "RD DIGITS".toList = .ok [.word 0x020000#24] ∧
      assembleLine Config.vectorParams "WR R15, #0x1234".toList = .ok [.word 0x8F1234#24] ∧
      assembleLine Config.vectorParams "PTICK *2".toList = .ok [.word 0x120000#24, .word 0x120000#24] ∧
      assembleLine Config.vectorParams "SETPWM #256".toList = .error .immediateRange := by decide

/-- Two lines of 95_test_vectors.md P1. -/
theorem test_assemble :
    assemble Config.vectorParams ["RESET".toList, "SETVAL #1234 ; the value".toList] =
      .ok [.word 0x140000#24, .word 0x8104D2#24] := by decide

/-- 30_encoding.md R81: the listing of a read. -/
theorem test_showRead : showRead 0x04D2#16 = "-> 0x04D2".toList := by decide

/-! ### Values that meet the hypotheses of the obligations -/

theorem vectorParams_inRange : Config.vectorParams.InRange := by constructor <;> decide

theorem leadingParams_inRange : leadingParams.InRange := by constructor <;> decide

/-- The largest compare value that fits every instance is an operand of SETPWM. -/
theorem setpwm_255_wellFormed : Instr.wellFormed hw (.setpwm 255#16) = true := by
  rw [← fitsPwm_eq_wellFormed hw_inRange]
  rfl

theorem fits_255 : (255#16).toNat < 2 ^ hw.pwmBits := (fitsPwm_iff hw_inRange _).mp rfl

/-- One operation of each unit, with operands at their largest. -/
def someOps : List Instr := [.setval 65535#16, .setpwm 255#16, .enable, .tick, .edgeR, .ctick, .ptick, .rdScan]

theorem someOps_wellFormed : ∀ i ∈ someOps, i.wellFormed hw = true := by
  simp [someOps, setpwm_255_wellFormed]
  decide

theorem reset_inv : Inv hw State.reset where
  value_le := by decide
  digits_eq := by decide
  dig_one := by decide
  seg_zero := by decide
  dark := by decide
  seg_one := by decide
  width_lt := by decide
  ccnt_lt := by decide
  cmp_lt := Nat.two_pow_pos _
  cnt_le := Nat.zero_le _

theorem witness_OpcodeMapIsExact : ∃ p : Params, p.InRange := ⟨_, vectorParams_inRange⟩

/-- The operands of SETVAL and SETPWM at the ends of their ranges. -/
theorem witness_DecodeOfEncodeIsTheOperation :
    Config.vectorParams.InRange ∧ Instr.wellFormed Config.vectorParams (.setpwm 255#16) = true ∧
      Instr.wellFormed Config.vectorParams (.setpwm 0#16) = true ∧
      Instr.wellFormed Config.vectorParams (.setval 65535#16) = true := ⟨vectorParams_inRange, by decide⟩

theorem witness_DecodedWordIsItsEncoding :
    Config.vectorParams.InRange ∧ decode Config.vectorParams 0x8600FF#24 = .ok (.setpwm 255#16) :=
  ⟨vectorParams_inRange, by decide⟩

/-- The condition that each row of the table of 30_encoding.md R78 puts on the fields, met at the ends of its range. The row of
PWMC has no word on an instance with `PWM_BITS = 16`; `test_decode_refuses_setpwm_256` has one with `PWM_BITS = 8`. -/
theorem witness_ReservedWordsAreRefusedAndMarked :
    (∀ w ∈ [0x800002#24, 0x80FFFF#24], clsField w = 0 ∧ wField w = true ∧ aField w = 0 ∧ dField w ≠ 0 ∧ dField w ≠ 1) ∧
      (∀ w ∈ [0x820000#24, 0x85FFFF#24], clsField w = 0 ∧ wField w = true ∧ (aField w = 2 ∨ aField w = 5)) ∧
      (∀ w ∈ [0x870000#24, 0x8FFFFF#24], clsField w = 0 ∧ wField w = true ∧ 7 ≤ (aField w).toNat) ∧
      (∀ w ∈ [0x000001#24, 0x07FFFF#24], clsField w = 0 ∧ wField w = false ∧ dField w ≠ 0) ∧
      (∀ w ∈ [0x070000#24, 0x0F0000#24], clsField w = 0 ∧ wField w = false ∧ dField w = 0 ∧ 7 ≤ (aField w).toNat) ∧
      (∀ w ∈ [0x900000#24, 0x9FFFFF#24], clsField w = 1 ∧ wField w = true) ∧
      (∀ w ∈ [0x150000#24, 0x1FFFFF#24], clsField w = 1 ∧ wField w = false ∧ 5 ≤ (aField w).toNat) ∧
      (∀ w ∈ [0x100001#24, 0x14FFFF#24],
        clsField w = 1 ∧ wField w = false ∧ (aField w = 0 ∨ aField w = 4) ∧ dField w ≠ 0) ∧
      (∀ w ∈ [0x130002#24, 0x13FFFF#24],
        clsField w = 1 ∧ wField w = false ∧ aField w = 3 ∧ dField w ≠ 0 ∧ dField w ≠ 1) ∧
      ∀ w ∈ [0x200000#24, 0xFFFFFF#24], 2 ≤ (clsField w).toNat := by
  refine ⟨?_, ?_, ?_, ?_, ?_, ?_, ?_, ?_, ?_, ?_⟩ <;> (intro w h; fin_cases h <;> decide)

theorem witness_StepRunsTheDecodedOperation :
    (∃ s : State, s.inputs = [0x81FFFF#24, 0x000000#24] ∧ decode hw 0x81FFFF#24 = .ok (.setval 65535#16)) ∧
      ∃ s : State, s.inputs = [0x830000#24] ∧ decode hw 0x830000#24 = .error .writeReadOnly :=
  ⟨⟨{ State.reset with inputs := [0x81FFFF#24, 0x000000#24] }, by decide⟩,
    ⟨{ State.reset with inputs := [0x830000#24] }, by decide⟩⟩

theorem witness_StepWithNoInputLeavesTheState : State.reset.inputs = [] := rfl

theorem witness_MachineRunIsRunOfOperations : ∀ i ∈ someOps, i.wellFormed hw = true := someOps_wellFormed

theorem witness_NoOperationCanFail : ∀ i ∈ someOps, i.wellFormed hw = true := someOps_wellFormed

theorem witness_ReadValueReturnsDisplayedValue :
    Inv hw State.reset ∧ Inv hw (storeValue 9999 State.reset) ∧ (storeValue 9999 State.reset).displayedValue = 9999 :=
  ⟨reset_inv,
    ⟨by decide, by decide, reset_inv.dig_one, reset_inv.seg_zero, reset_inv.dark, reset_inv.seg_one, reset_inv.width_lt,
      reset_inv.ccnt_lt, reset_inv.cmp_lt, reset_inv.cnt_le⟩, rfl⟩

theorem witness_ReadScanReturnsThePosition : (showing1234 3 6).enabled = true := rfl

theorem witness_TickStrobesAndAdvances : State.reset.enabled = false ∧ (showing1234 3 6).enabled = true := by decide

theorem witness_RisingEdgeStartsThePulse :
    State.reset.edgePhase = .armedRising ∧ (capturing .armedFalling 42).edgePhase = .armedFalling := by decide

theorem witness_FallingEdgeMeasuresThePulse :
    (capturing .armedFalling 0xFFFF).edgePhase = .armedFalling ∧ State.reset.edgePhase = .armedRising := by decide

theorem witness_SetpwmWritesTheCompareRegister :
    (255#16).toNat < 2 ^ hw.pwmBits ∧ (0#16).toNat < 2 ^ hw.pwmBits ∧
      Config.vectorParams.InRange ∧ 2 ^ Config.vectorParams.pwmBits ≤ (256#16).toNat :=
  ⟨fits_255, Nat.two_pow_pos _, vectorParams_inRange, by decide⟩

theorem witness_ReadPwmcReturnsTheCompareRegister : Inv hw State.reset ∧ hw.pwmBits ≤ 16 ∧ hw.pwmBits ≤ hw.pwmBits :=
  ⟨reset_inv, hw_inRange.pwm_le, Nat.le_refl _⟩

theorem witness_PtickCountsAndWrapsAtTop :
    (driving 3 hw.pwmTop).pwmCnt = hw.pwmTop ∧ (driving 3 hw.pwmTop).pwmCnt ≤ hw.pwmTop ∧
      (driving 3 0).pwmCnt ≠ hw.pwmTop ∧ (driving 3 0).pwmCnt ≤ hw.pwmTop :=
  ⟨rfl, Nat.le_refl _, Nat.ne_of_lt hw_inRange.top_pos, Nat.zero_le _⟩

/-- A read and a write. -/
theorem witness_OnlyReadsAnswerAndNoneTouchesTheInputs :
    (∃ t, exec .rdCapw State.reset = .next t) ∧ ∃ t, exec .reset (showing1234 3 6) = .next t := ⟨⟨_, rfl⟩, ⟨_, rfl⟩⟩

theorem witness_ResetMeetsTheInvariant : Config.vectorParams.InRange := vectorParams_inRange

theorem witness_StepKeepsTheInvariant :
    ∃ s t : State, Inv hw s ∧ s.inputs = [0x100000#24] ∧ step s = .next t :=
  ⟨{ State.reset with inputs := [0x100000#24] }, State.reset,
    ⟨reset_inv.value_le, reset_inv.digits_eq, reset_inv.dig_one, reset_inv.seg_zero, reset_inv.dark, reset_inv.seg_one,
      reset_inv.width_lt, reset_inv.ccnt_lt, reset_inv.cmp_lt, reset_inv.cnt_le⟩, rfl, rfl⟩

/-- For each field, a run with none of its writers. -/
theorem witness_DisplayFieldsHaveOnlyTheirWriters :
    (∃ t, runOps [.enable, .tick, .disable] State.reset = .next t) ∧
      (∀ i ∈ [Instr.enable, .tick, .disable], i ≠ .reset ∧ ∀ d, i ≠ .setval d) ∧
      (∃ t, runOps [.tick, .setval 9#16] State.reset = .next t) ∧
      (∀ i ∈ [Instr.tick, .setval 9#16], i ≠ .reset ∧ i ≠ .enable ∧ i ≠ .disable) ∧
      (∃ t, runOps [.disable, .enable, .setval 9#16] State.reset = .next t) ∧
      (∀ i ∈ [Instr.disable, .enable, .setval 9#16], i ≠ .reset ∧ i ≠ .tick) ∧
      (∃ t, runOps [.enable, .setval 9#16] State.reset = .next t) ∧
      (∀ i ∈ [Instr.enable, .setval 9#16], i ≠ .reset ∧ i ≠ .tick ∧ i ≠ .disable) :=
  ⟨⟨_, rfl⟩, by simp, ⟨_, rfl⟩, by decide, ⟨_, rfl⟩, by decide, ⟨_, rfl⟩, by decide⟩

/-- For each field, a run with none of its writers. -/
theorem witness_CaptureAndPwmFieldsHaveOnlyTheirWriters :
    (∃ t, runOps [.ctick, .ptick, .tick] State.reset = .next t) ∧
      (∀ i ∈ [Instr.ctick, .ptick, .tick], i ≠ .reset ∧ i ≠ .edgeR ∧ i ≠ .edgeF) ∧
      (∃ t, runOps [.edgeR, .ctick] State.reset = .next t) ∧
      (∀ i ∈ [Instr.edgeR, .ctick], i ≠ .reset ∧ i ≠ .edgeF) ∧
      (∃ t, runOps [.ptick, .tick] State.reset = .next t) ∧
      (∀ i ∈ [Instr.ptick, .tick], i ≠ .reset ∧ i ≠ .edgeR ∧ i ≠ .edgeF ∧ i ≠ .ctick) ∧
      (∀ i ∈ [Instr.ptick, .tick], i ≠ .reset ∧ ∀ d, i ≠ .setpwm d) ∧
      (∃ t, runOps [.edgeR, .rdPwmc] State.reset = .next t) ∧
      (∀ i ∈ [Instr.edgeR, .rdPwmc], i ≠ .reset ∧ i ≠ .ptick) :=
  ⟨⟨_, rfl⟩, by decide, ⟨_, rfl⟩, by decide, ⟨_, rfl⟩, by decide, by simp, ⟨_, rfl⟩, by decide⟩

theorem witness_HostCannotMoveTheInterruptOwnedFields :
    (∀ i ∈ [Instr.enable, .setval 65535#16, .setpwm 255#16, .rdScan], agentOf i = .host) ∧
      ∃ t, runOps [.enable, .setval 65535#16, .setpwm 255#16, .rdScan] State.reset = .next t :=
  ⟨by decide, ⟨_, rfl⟩⟩

theorem witness_UnitsRunApart : ∃ t, runOps someOps State.reset = .next t :=
  ⟨_, runOps_next someOps_wellFormed _⟩

theorem witness_ReadsDoNotShowTheHiddenCounters : Instr.edgeF ∉ [Instr.edgeR, .ctick, .ptick, .rdCapw] := by decide

theorem witness_HostAccessesAreIdempotent :
    agentOf (.setpwm 255#16) = .host ∧ Instr.wellFormed hw (.setpwm 255#16) = true ∧
      agentOf .rdCapw = .host ∧ Instr.wellFormed hw .rdCapw = true ∧ isRead .rdCapw = true :=
  ⟨rfl, setpwm_255_wellFormed, rfl, rfl, rfl⟩

theorem witness_ReadRightAfterWriteReturnsTheEffect : (255#16).toNat < 2 ^ hw.pwmBits := fits_255

theorem witness_ResetDiscardsEveryRun : ∀ i ∈ someOps, i.wellFormed hw = true := someOps_wellFormed

/-- A blanked position, one that is shown, and a state of the invariant. -/
theorem witness_BlankedPositionsAreTheLeadingZeros :
    blank leadingParams State.reset 1 = true ∧ blank leadingParams State.reset 0 = false ∧
      Inv leadingParams State.reset :=
  ⟨by decide, by decide,
    ⟨reset_inv.value_le, reset_inv.digits_eq, reset_inv.dig_one, reset_inv.seg_zero, reset_inv.dark, reset_inv.seg_one,
      by decide, by decide, by decide, by decide⟩⟩

/-- Runs of 28, of 27 and of 1 tick. -/
theorem witness_ScanCycleIsTwentyEightTicks :
    (showing1234 3 6).enabled = true ∧
      ∀ n ∈ [1, 27, 28], (∀ i ∈ List.replicate n Instr.tick, i ≠ .enable ∧ i ≠ .disable ∧ i ≠ .reset) ∧
        (List.replicate n Instr.tick).count .tick = n ∧ ∃ t, runOps (List.replicate n .tick) (showing1234 3 6) = .next t := by
  refine ⟨rfl, fun n _ => ⟨fun i hi => ?_, List.count_replicate_self, _, runOps_next (fun i hi => ?_) _⟩⟩
  · rw [List.eq_of_mem_replicate hi]
    decide
  · rw [List.eq_of_mem_replicate hi]
    rfl

theorem witness_BlankingIsIdempotent :
    ∀ i ∈ [Instr.tick, .setval 65535#16, .rdScan], i.wellFormed hw = true ∧ i ≠ .enable ∧ i ≠ .reset := by decide

theorem witness_EachSegmentIsDrivenOncePerCycle : (showing1234 3 6).enabled = true := rfl

theorem witness_NextTickShowsTheNewValue : (showing1234 0 3).enabled = true := rfl

theorem witness_NoTwoDigitLinesWithinATick : (showing1234 3 1).enabled = true := rfl

/-- A pulse with as many counts as bring a negative correction to 0: the sum is in range whatever `CLOCK_FUDGE` is. -/
theorem witness_PulsePairMeasuresItsCounts :
    ∃ ops : List Instr, State.reset.edgePhase = .armedRising ∧
      (∀ i ∈ ops, i ≠ .edgeR ∧ i ≠ .edgeF ∧ i ≠ .reset) ∧
      (∃ t, runOps (.edgeR :: ops ++ [.edgeF]) State.reset = .next t) ∧
      0 ≤ (ops.count .ctick : Int) + hw.clockFudge ∧ (ops.count .ctick : Int) + hw.clockFudge < (2 : Int) ^ hw.cntBits := by
  refine ⟨List.replicate (-hw.clockFudge).toNat .ctick, rfl, fun i hi => ?_, ⟨_, runOps_next (fun i hi => ?_) _⟩, ?_, ?_⟩
  · rw [List.eq_of_mem_replicate hi]
    decide
  · rcases List.mem_append.mp hi with hi | hi
    · rcases List.mem_cons.mp hi with rfl | hi
      · rfl
      · rw [List.eq_of_mem_replicate hi]
        rfl
    · rw [List.mem_singleton.mp hi]
      rfl
  · rw [List.count_replicate_self]
    omega
  · have h := hw_inRange.fudge_lt
    rw [hw_cntBits] at h ⊢
    rw [List.count_replicate_self]
    omega

theorem witness_LongPulseMeasuresModuloTheWidth : State.reset.edgePhase = .armedRising := rfl

theorem witness_LostFallingEdgeMeasuresAcross :
    State.reset.edgePhase = .armedRising ∧
      ∀ i ∈ [Instr.ctick] ++ [.ctick, .tick] ++ [.ctick], i.wellFormed hw = true ∧ i ≠ .edgeR ∧ i ≠ .edgeF ∧ i ≠ .reset := by
  decide

/-- An accepted edge of each polarity, and a falling edge that changes the width. -/
theorem witness_AcceptedEdgesAlternate :
    (∃ t, exec .edgeR State.reset = .next t ∧ t.edgePhase ≠ State.reset.edgePhase) ∧
      ∃ s t : State, exec .edgeF s = .next t ∧ t.edgePhase ≠ s.edgePhase ∧ t.lastPulseWidth ≠ s.lastPulseWidth := by
  refine ⟨⟨_, rfl, by decide⟩,
    ⟨{ capturing .armedFalling 0 with lastPulseWidth := pulseWidth hw 0 + 1 }, _, rfl, by decide, ?_⟩⟩
  change pulseWidth hw 0 ≠ pulseWidth hw 0 + 1
  simp

/-- Runs with an ignored falling edge: before any rising edge, and after RESETs (95_test_vectors.md P5, lines 8 to 10). -/
theorem witness_CapwHoldsTheLastPulse :
    (∀ i ∈ [Instr.edgeF, .edgeR, .ctick, .setval 65535#16], i.wellFormed hw = true ∧ i ≠ .reset) ∧
      AcceptsNoFallingEdge [.edgeF, .edgeR, .ctick, .setval 65535#16] State.reset ∧
      (∀ i ∈ [Instr.edgeF, .edgeR, .reset, .edgeF], i.wellFormed hw = true) ∧
      AcceptsNoFallingEdge (.reset :: [.edgeF, .edgeR, .reset, .edgeF]) (capturing .armedFalling 10) := by
  refine ⟨by decide, ?_, by decide, ?_⟩
  · iterate 4 refine (acceptsNoFallingEdge_cons rfl _ _).mpr ⟨by decide, ?_⟩
    exact acceptsNoFallingEdge_nil _
  · iterate 5 refine (acceptsNoFallingEdge_cons rfl _ _).mpr ⟨by decide, ?_⟩
    exact acceptsNoFallingEdge_nil _

theorem witness_OnTimeIsTheCompareValue : (driving 255 0).pwmCnt = 0 ∧ 0 ≤ hw.pwmTop ∧ hw.pwmTop ≤ hw.pwmTop :=
  ⟨rfl, Nat.zero_le _, Nat.le_refl _⟩

/-- A run with a SETPWM, for the count, and one without, for `PWMOUT`. -/
theorem witness_PwmPeriodIsTopPlusOne :
    (driving 255 hw.pwmTop).pwmCnt ≤ hw.pwmTop ∧
      (∀ i ∈ [Instr.ptick, .setpwm 255#16, .ptick], i ≠ .reset) ∧
      (∃ t, runOps [.ptick, .setpwm 255#16, .ptick] (driving 255 hw.pwmTop) = .next t) ∧
      (∀ i ∈ [Instr.ptick, .tick, .ptick], i ≠ .reset ∧ ∀ d, i ≠ .setpwm d) ∧
      ∃ t, runOps [.ptick, .tick, .ptick] (driving 255 hw.pwmTop) = .next t :=
  ⟨Nat.le_refl _, by decide, ⟨_, rfl⟩, by simp, ⟨_, rfl⟩⟩

/-- Compare values on both sides of a count, at the boundary. -/
theorem witness_CompareWriteTakesEffectAtOnce :
    (255#16).toNat < 2 ^ hw.pwmBits ∧ (driving 254 254).pwmCmp.toNat ≤ (driving 254 254).pwmCnt ∧
      (driving 254 254).pwmCnt < (255#16).toNat ∧
      (0#16).toNat < 2 ^ hw.pwmBits ∧ (driving 1 0).pwmCnt < (driving 1 0).pwmCmp.toNat ∧
      (0#16).toNat ≤ (driving 1 0).pwmCnt :=
  ⟨fits_255, by decide, by decide, Nat.two_pow_pos _, by decide, by decide⟩

/-- The last defined index and the first reserved one. -/
theorem witness_ReadsFollowTheRegisterMap :
    regRead 6 (driving 255 0) = some 255#16 ∧ 7 ≤ BitVec.toNat (7 : Index) ∧ 7 ≤ BitVec.toNat (15 : Index) := by decide

/-- A byte access has no step word. -/
theorem witness_AlignedWordAccessesFormStepWords : ¬ ∃ w, stepWordOf hw ⟨true, 0, 1, 0⟩ = .ok w := by
  rintro ⟨w, h⟩
  cases h

theorem witness_ToggleFlipsEnabledAcrossEvents :
    ∀ i ∈ [Instr.tick, .edgeR, .reset, .ctick, .ptick, .edgeF], agentOf i ≠ .host := by decide

end Sys2Proof.Tests
end

/-!
PROOF. The statements on steps, runs and units (00_scope.md R3, R17; 20_memory.md R59; 30_encoding.md R78), and the lemmas they
rest on: decode and encode agree, what a step and a run do with one word, and a unit's view of a run.
-/

namespace Sys2Proof.Machine

/-! ### The decoder's operations exist, and decoding undoes encoding -/

theorem wellFormed_of_decodeWrite {p : Params} (hp : p.InRange) {a : Index} {d : Word} {i : Instr}
    (h : decodeWrite p a d = .ok i) : i.wellFormed p = true := by
  unfold decodeWrite at h
  repeat' split at h
  case h_7.isTrue hfits => cases h; rwa [← fitsPwm_eq_wellFormed hp]
  all_goals cases h
  all_goals rfl

theorem wellFormed_of_decodeRead {p : Params} {a : Index} {d : Word} {i : Instr} (h : decodeRead a d = .ok i) :
    i.wellFormed p = true := by
  unfold decodeRead at h
  repeat' split at h
  all_goals cases h
  all_goals rfl

theorem wellFormed_of_decodeEvent {p : Params} {b : Bool} {e : Index} {d : Word} {i : Instr}
    (h : decodeEvent b e d = .ok i) : i.wellFormed p = true := by
  unfold decodeEvent at h
  repeat' split at h
  all_goals cases h
  all_goals rfl

/-- The decoder answers only well-formed operations (30_encoding.md R76). -/
theorem wellFormed_of_decode {p : Params} (hp : p.InRange) {w : StepWord} {i : Instr} (h : decode p w = .ok i) :
    i.wellFormed p = true := by
  unfold decode at h
  split at h
  · split at h
    · exact wellFormed_of_decodeWrite hp h
    · exact wellFormed_of_decodeRead h
  · exact wellFormed_of_decodeEvent h
  · cases h

@[simp] theorem decode_hostWriteWord (p : Params) (a : Index) (d : Word) :
    decode p (hostWriteWord a d) = decodeWrite p a d := by
  simp [decode]

@[simp] theorem decode_hostReadWord (p : Params) (a : Index) : decode p (hostReadWord a) = decodeRead a 0 := by
  simp [decode]

@[simp] theorem decode_eventWord (p : Params) (e : Index) (d : Word) :
    decode p (eventWord e d) = decodeEvent false e d := by
  simp [decode]

/-- Decoding undoes encoding, for all parameters in range (30_encoding.md R71 to R76). -/
theorem decode_encode {p : Params} (hp : p.InRange) {i : Instr} (h : i.wellFormed p = true) :
    decode p (encode i) = .ok i := by
  cases i with
  | setpwm d =>
    rw [← fitsPwm_eq_wellFormed hp] at h
    rw [encode, decode_hostWriteWord]
    exact if_pos h
  | enable | disable | setval => rw [encode, decode_hostWriteWord]; rfl
  | rdCtrl | rdValue | rdDigits | rdScan | rdCapw | rdCaps | rdPwmc => rw [encode, decode_hostReadWord]; rfl
  | tick | ctick | ptick | edgeR | edgeF | reset => rw [encode, decode_eventWord]; rfl

/-! ### One word in a step -/

theorem runWord_of_decode_ok {w : StepWord} {i : Instr} (h : decode hw w = .ok i) (s : State) :
    runWord w s = exec i s := by
  simp only [runWord, h]

theorem runWord_of_decode_error {w : StepWord} {e : Reserved} (h : decode hw w = .error e) (s : State) :
    runWord w s = .refused (.reservedWord e) := by
  simp only [runWord, h]

/-- A step performs the first word waiting, on the state without it (20_memory.md R59). -/
theorem step_of_inputs_cons {s : State} {w : StepWord} {rest : List StepWord} (h : s.inputs = w :: rest) :
    step s = runWord w { s with inputs := rest } := by
  simp only [step, fetch, h]

/-- Settles O7, from what a step does with the first word and what a word does. -/
theorem stepRunsTheDecodedOperation : Obligations.StepRunsTheDecodedOperation := by
  intro s w rest hs
  rw [step_of_inputs_cons hs]
  exact ⟨fun i hi => runWord_of_decode_ok hi _, fun r hr => runWord_of_decode_error hr _⟩

/-! ### One word in a run -/

theorem decode_of_legalWord {p : Params} {w : StepWord} (h : legalWord p w = true) : ∃ i, decode p w = .ok i := by
  unfold legalWord at h
  split at h
  · next i hi => exact ⟨i, hi⟩
  · cases h

theorem decode_of_not_legalWord {p : Params} {w : StepWord} (h : ¬ legalWord p w = true) :
    ∃ e, decode p w = .error e := by
  unfold legalWord at h
  split at h
  · exact absurd rfl h
  · next e he => exact ⟨e, he⟩

/-- A word that is not reserved runs its operation and leaves the mark as it is (00_scope.md R17). -/
theorem feed_of_decode_ok {w : StepWord} {i : Instr} (h : decode hw w = .ok i) (r : Run) :
    feed r w = ⟨effect i r.state, r.reads ++ (effect i r.state).readResult.toList, r.refused⟩ := by
  simp only [feed, runWord_of_decode_ok h, exec_next (wellFormed_of_decode hw_inRange h)]

/-- A reserved word sets the mark and does nothing else (30_encoding.md R78). -/
theorem feed_of_decode_error {w : StepWord} {e : Reserved} (h : decode hw w = .error e) (r : Run) :
    feed r w = { r with refused := true } := by
  simp only [feed, runWord_of_decode_error h]

theorem feed_refused (r : Run) (w : StepWord) : (feed r w).refused = (r.refused || !legalWord hw w) := by
  by_cases hlegal : legalWord hw w = true
  · obtain ⟨i, hi⟩ := decode_of_legalWord hlegal
    simp [feed_of_decode_ok hi, hlegal]
  · obtain ⟨e, he⟩ := decode_of_not_legalWord hlegal
    simp [feed_of_decode_error he, hlegal]

/-- Two runs in the same state and with the same read results: they may differ in their marks. -/
def Run.SameButMark (r r' : Run) : Prop := r.state = r'.state ∧ r.reads = r'.reads

/-- A word that is not reserved does the same in a run whether it is marked or not (30_encoding.md R78). -/
theorem Run.SameButMark.feed_legal {r r' : Run} (h : r.SameButMark r') {w : StepWord} (hlegal : legalWord hw w = true) :
    (feed r w).SameButMark (feed r' w) := by
  obtain ⟨hstate, hreads⟩ := h
  obtain ⟨i, hi⟩ := decode_of_legalWord hlegal
  rw [feed_of_decode_ok hi, feed_of_decode_ok hi, hstate, hreads]
  exact ⟨rfl, rfl⟩

theorem Run.SameButMark.feed_reserved {r r' : Run} (h : r.SameButMark r') {w : StepWord}
    (hlegal : ¬ legalWord hw w = true) : (feed r w).SameButMark r' := by
  obtain ⟨e, he⟩ := decode_of_not_legalWord hlegal
  rw [feed_of_decode_error he]
  exact h

/-- Leaving out the reserved words leaves a run the same but for its mark (30_encoding.md R78). -/
theorem Run.SameButMark.feedAll_filter {r r' : Run} (h : r.SameButMark r') (ws : List StepWord) :
    (feedAll r ws).SameButMark (feedAll r' (ws.filter (legalWord hw))) := by
  induction ws generalizing r r' with
  | nil => exact h
  | cons w ws ih =>
    by_cases hlegal : legalWord hw w = true
    · rw [List.filter_cons_of_pos hlegal]
      exact ih (h.feed_legal hlegal)
    · rw [List.filter_cons_of_neg hlegal]
      exact ih (h.feed_reserved hlegal)

theorem feedAll_refused (r : Run) (ws : List StepWord) :
    (feedAll r ws).refused = (r.refused || ws.any fun w => !legalWord hw w) := by
  induction ws generalizing r with
  | nil => simp [feedAll]
  | cons w ws ih =>
    calc (feedAll (feed r w) ws).refused
        = ((feed r w).refused || ws.any fun w => !legalWord hw w) := ih _
      _ = (r.refused || (w :: ws).any fun w => !legalWord hw w) := by
        rw [feed_refused, List.any_cons, Bool.or_assoc]

/-- Settles O6: a run and its legal words alone go side by side, the same but for the mark. -/
theorem runSkipsReservedWords : Obligations.RunSkipsReservedWords := by
  intro r ws
  have hsame : r.SameButMark r := ⟨rfl, rfl⟩
  obtain ⟨hstate, hreads⟩ := hsame.feedAll_filter ws
  exact ⟨hstate, hreads, feedAll_refused r ws⟩

/-! ### A run of the machine -/

/-- The step words `xs` wait in place of those that did. -/
def placeInputs (xs : List StepWord) (s : State) : State := { s with inputs := xs }

section placeInputs

variable (xs : List StepWord) (s : State)

theorem risingEdge_placeInputs : risingEdge (placeInputs xs s) = placeInputs xs (risingEdge s) := by
  cases h : s.edgePhase with
  | armedRising => rw [risingEdge_armed h, risingEdge_armed (s := placeInputs xs s) h]; rfl
  | armedFalling => rw [risingEdge_ignored h, risingEdge_ignored (s := placeInputs xs s) h]

theorem fallingEdge_placeInputs (p : Params) :
    fallingEdge p (placeInputs xs s) = placeInputs xs (fallingEdge p s) := by
  cases h : s.edgePhase with
  | armedRising => rw [fallingEdge_ignored h, fallingEdge_ignored (s := placeInputs xs s) h]
  | armedFalling => rw [fallingEdge_armed h, fallingEdge_armed (s := placeInputs xs s) h]; rfl

theorem advanceScan_placeInputs : advanceScan (placeInputs xs s) = placeInputs xs (advanceScan s) := by
  by_cases h : s.activeSegment = 6
  · simp [advanceScan, placeInputs, h]
  · simp [advanceScan, placeInputs, h]

theorem refreshTick_placeInputs (p : Params) :
    refreshTick p (placeInputs xs s) = placeInputs xs (refreshTick p s) := by
  cases h : s.enabled with
  | false => rw [refreshTick_off h, refreshTick_off (s := placeInputs xs s) h]
  | true =>
    rw [refreshTick_on h, refreshTick_on (s := placeInputs xs s) h]
    exact advanceScan_placeInputs xs (strobeC p (strobeB (strobeA s)))

/-- No operation reads the step words still to arrive (20_memory.md R59). -/
theorem effect_placeInputs (i : Instr) : effect i (placeInputs xs s) = placeInputs xs (effect i s) := by
  cases i with
  | tick => exact congrArg quiet (refreshTick_placeInputs xs s hw)
  | edgeR => exact congrArg quiet (risingEdge_placeInputs xs s)
  | edgeF => exact congrArg quiet (fallingEdge_placeInputs xs s hw)
  | _ => rfl

end placeInputs

/-- With the word of a well-formed operation first, a step is that operation (00_scope.md R17). -/
theorem step_encode {i : Instr} (h : i.wellFormed hw = true) (s : State) (rest : List StepWord) :
    step (placeInputs (encode i :: rest) s) = .next (placeInputs rest (effect i s)) := by
  rw [step_of_inputs_cons rfl, runWord_of_decode_ok (decode_encode hw_inRange h), exec_next h, ← effect_placeInputs]
  rfl

theorem core_run_succ {s t : State} (h : step s = .next t) (k : Nat) : core.run (k + 1) s = core.run k t := by
  have hcore : core.step s = .next t := h
  simp only [Host.Core.run, hcore]

/-- On the encodings of well-formed operations the machine does the operations in order (20_memory.md R59). -/
theorem core_run_encode {ops : List Instr} (hwf : ∀ i ∈ ops, i.wellFormed hw = true) (s : State)
    (rest : List StepWord) :
    core.run ops.length (placeInputs (ops.map encode ++ rest) s) = runOps ops (placeInputs rest s) := by
  induction ops generalizing s with
  | nil => rfl
  | cons i ops ih =>
    obtain ⟨hi, hops⟩ := List.forall_mem_cons.mp hwf
    rw [runOps_cons hi, effect_placeInputs, ← ih hops (effect i s)]
    exact core_run_succ (step_encode hi s _) _

/-- Settles O9: `placeInputs` is the update the statement writes out. -/
theorem machineRunIsRunOfOperations : Obligations.MachineRunIsRunOfOperations :=
  fun _ops s rest hwf => core_run_encode hwf s rest

/-! ### A unit and the operations that touch it -/

/-- A part of the state runs apart from the rest: operations that do not touch it keep it, and what the others leave in it
depends on it alone (00_scope.md R3, 60_exceptions.md R213). -/
structure RunsApart {α : Type} (part : State → α) (touches : Instr → Bool) : Prop where
  keep : ∀ i s, touches i = false → part (effect i s) = part s
  follow : ∀ i s u, touches i = true → part s = part u → part (effect i s) = part (effect i u)

section RunsApart

variable {α : Type} {part : State → α} {touches : Instr → Bool}

theorem RunsApart.foldl_filter (h : RunsApart part touches) (ops : List Instr) {s u : State} (hsu : part s = part u) :
    part (ops.foldl (fun v i => effect i v) s) = part ((ops.filter touches).foldl (fun v i => effect i v) u) := by
  induction ops generalizing s u with
  | nil => exact hsu
  | cons i ops ih =>
    by_cases hi : touches i = true
    · rw [List.filter_cons_of_pos hi]
      exact ih (h.follow i s u hi hsu)
    · rw [List.filter_cons_of_neg hi]
      exact ih ((h.keep i s (Bool.eq_false_of_not_eq_true hi)).trans hsu)

/-- A run leaves in such a part what the operations that touch it leave alone, in their order. -/
theorem RunsApart.runOps_filter (h : RunsApart part touches) {ops : List Instr} {s t : State}
    (hrun : runOps ops s = .next t) : ∃ u, runOps (ops.filter touches) s = .next u ∧ part t = part u := by
  obtain ⟨hwf, rfl⟩ := runOps_cases hrun
  exact ⟨_, runOps_next (fun i hi => hwf i (List.mem_of_mem_filter hi)) s, h.foldl_filter ops rfl⟩

end RunsApart

/-- The display engine's fields (10_state.md R22 to R28). -/
def displayPart (s : State) : Digits × Nat × Bool × Fin 4 × Fin 7 × DigitLines × SegLines :=
  (s.digits, s.displayedValue, s.enabled, s.activeDigit, s.activeSegment, s.dig, s.seg)

/-- The capture engine's fields (10_state.md R32 to R34). -/
def capturePart (s : State) : EdgePhase × Word × Word := (s.edgePhase, s.lastPulseWidth, s.ccnt)

/-- The PWM driver's fields (10_state.md R35, R36). -/
def pwmPart (s : State) : Word × Nat := (s.pwmCmp, s.pwmCnt)

theorem displayPart_eq_iff {s u : State} : displayPart s = displayPart u ↔
    s.digits = u.digits ∧ s.displayedValue = u.displayedValue ∧ s.enabled = u.enabled ∧
      s.activeDigit = u.activeDigit ∧ s.activeSegment = u.activeSegment ∧ s.dig = u.dig ∧ s.seg = u.seg := by
  simp [displayPart]

theorem capturePart_eq_iff {s u : State} : capturePart s = capturePart u ↔
    s.edgePhase = u.edgePhase ∧ s.lastPulseWidth = u.lastPulseWidth ∧ s.ccnt = u.ccnt := by
  simp [capturePart]

theorem pwmPart_eq_iff {s u : State} : pwmPart s = pwmPart u ↔ s.pwmCmp = u.pwmCmp ∧ s.pwmCnt = u.pwmCnt := by
  simp [pwmPart]

/-- A tick reads the display's fields only (40_display.md R110). -/
theorem displayPart_refreshTick_congr (p : Params) {s u : State} (h : displayPart s = displayPart u) :
    displayPart (refreshTick p s) = displayPart (refreshTick p u) := by
  obtain ⟨hdigits, hvalue, henabled, hdigit, hsegment, -, -⟩ := displayPart_eq_iff.mp h
  cases hu : u.enabled with
  | false => rwa [refreshTick_off (henabled.trans hu), refreshTick_off hu]
  | true =>
    have hs : s.enabled = true := henabled.trans hu
    simp [displayPart, refreshTick_dig, refreshTick_seg, refreshTick_activeDigit, refreshTick_activeSegment, hs, hu,
      hdigits, hvalue, hdigit, hsegment, shown_congr hdigits]

/-- A rising edge reads the capture engine's fields only (41_capture.md R130). -/
theorem capturePart_risingEdge_congr {s u : State} (h : capturePart s = capturePart u) :
    capturePart (risingEdge s) = capturePart (risingEdge u) := by
  obtain ⟨hphase, hwidth, -⟩ := capturePart_eq_iff.mp h
  cases hu : u.edgePhase with
  | armedRising =>
    rw [risingEdge_armed (hphase.trans hu), risingEdge_armed hu]
    simp [capturePart, hwidth]
  | armedFalling => rwa [risingEdge_ignored (hphase.trans hu), risingEdge_ignored hu]

/-- A falling edge reads the capture engine's fields only (41_capture.md R131). -/
theorem capturePart_fallingEdge_congr (p : Params) {s u : State} (h : capturePart s = capturePart u) :
    capturePart (fallingEdge p s) = capturePart (fallingEdge p u) := by
  obtain ⟨hphase, -, hccnt⟩ := capturePart_eq_iff.mp h
  cases hu : u.edgePhase with
  | armedRising => rwa [fallingEdge_ignored (hphase.trans hu), fallingEdge_ignored hu]
  | armedFalling =>
    rw [fallingEdge_armed (hphase.trans hu), fallingEdge_armed hu]
    simp [capturePart, hccnt]

theorem displayPart_runsApart : RunsApart displayPart affectsDisplay where
  keep i s h := by
    cases i with
    | enable | disable | setval | tick | reset => cases h
    | edgeR | edgeF => simp [displayPart, effect]
    | _ => rfl
  follow i s u h hsu := by
    obtain ⟨hdigits, hvalue, henabled, hdigit, hsegment, hdig, hseg⟩ := displayPart_eq_iff.mp hsu
    cases i with
    | tick => exact displayPart_refreshTick_congr hw hsu
    | enable | disable | setval | reset =>
      simp [displayPart, effect, hdigits, hvalue, henabled, hdigit, hsegment, hdig, hseg]
    | _ => cases h

theorem capturePart_runsApart : RunsApart capturePart affectsCapture where
  keep i s h := by
    cases i with
    | ctick | edgeR | edgeF | reset => cases h
    | tick => simp [capturePart, effect]
    | _ => rfl
  follow i s u h hsu := by
    obtain ⟨hphase, hwidth, hccnt⟩ := capturePart_eq_iff.mp hsu
    cases i with
    | edgeR => exact capturePart_risingEdge_congr hsu
    | edgeF => exact capturePart_fallingEdge_congr hw hsu
    | ctick | reset => simp [capturePart, effect, hphase, hwidth, hccnt]
    | _ => cases h

theorem pwmPart_runsApart : RunsApart pwmPart affectsPwm where
  keep i s h := by
    cases i with
    | setpwm | ptick | reset => cases h
    | tick | edgeR | edgeF => simp [pwmPart, effect]
    | _ => rfl
  follow i s u h hsu := by
    obtain ⟨hcmp, hcnt⟩ := pwmPart_eq_iff.mp hsu
    cases i with
    | setpwm | ptick | reset => simp [pwmPart, effect, hcmp, hcnt]
    | _ => cases h

/-- Settles O36: each unit's fields run apart from the rest of the state. -/
theorem unitsRunApart : Obligations.UnitsRunApart := by
  intro ops s t hrun
  obtain ⟨ud, hud, hdisplay⟩ := displayPart_runsApart.runOps_filter hrun
  obtain ⟨uc, huc, hcapture⟩ := capturePart_runsApart.runOps_filter hrun
  obtain ⟨up, hup, hpwm⟩ := pwmPart_runsApart.runOps_filter hrun
  exact ⟨⟨ud, hud, displayPart_eq_iff.mp hdisplay⟩, ⟨uc, huc, capturePart_eq_iff.mp hcapture⟩,
    ⟨up, hup, pwmPart_eq_iff.mp hpwm⟩⟩

end Sys2Proof.Machine

/-!
PROOF. The statements on the state (10_state.md): its reset values, its invariant in every step and every run, which operations
may write each field, what the host can read and what it cannot, and the lemmas they rest on.
-/

namespace Sys2Proof.Machine

/-! ### Reset values (R49) -/

/-- Settles O28: the reset state has the values R49 gives, and a RESET leaves it in the block. -/
theorem resetValuesOfEveryField : Obligations.ResetValuesOfEveryField :=
  ⟨rfl, fun s => ⟨_, exec_next rfl s, block_resetBlock s⟩, by decide, rfl, rfl, rfl, rfl, rfl, rfl, rfl, rfl,
    rfl, rfl, rfl, rfl⟩

/-! ### The invariant and the updates of the state (R23, R24, R29, R33 to R36) -/

/-- The reset state meets the invariant whatever the parameters: its widths and counts are all 0. -/
theorem Inv.at_reset (p : Params) : Inv p State.reset where
  value_le := Nat.zero_le _
  digits_eq := by decide
  dig_one := by decide
  seg_zero := fun _ => rfl
  dark := fun _ => ⟨rfl, rfl⟩
  seg_one := by decide
  width_lt := Nat.two_pow_pos _
  ccnt_lt := Nat.two_pow_pos _
  cmp_lt := Nat.two_pow_pos _
  cnt_le := Nat.zero_le _

/-- Settles O30: the reset state meets the invariant even for parameters out of range. -/
theorem resetMeetsTheInvariant : Obligations.ResetMeetsTheInvariant := fun p _ => Inv.at_reset p

theorem onehot4_ne_zero (i : Fin 4) : onehot4 i ≠ 0 := by
  revert i; decide

section updates

variable {p : Params} {s : State}

/-- The invariant speaks of the spec's own part of the state only. -/
theorem Inv.of_block_eq {t : State} (h : Inv p s) (hblock : t.block = s.block) : Inv p t :=
  have hs : Inv p s.block := { h with }
  have ht : Inv p t.block := hblock ▸ hs
  { ht with }

theorem Inv.setEnabled_true (h : Inv p s) : Inv p (setEnabled true s) :=
  { h with dark := nofun }

/-- Blank outputs may stand with the display on or off (40_display.md R101). -/
theorem Inv.blankOutputs_setEnabled (h : Inv p s) (b : Bool) : Inv p (blankOutputs (setEnabled b s)) :=
  { h with
    dig_one := by simp
    seg_zero := fun _ => rfl
    dark := fun _ => ⟨rfl, rfl⟩
    seg_one := by simp }

/-- A value in range comes with its own digits (40_display.md R103). -/
theorem Inv.storeValue (h : Inv p s) {v : Nat} (hv : v ≤ 9999) : Inv p (storeValue v s) :=
  { h with value_le := hv, digits_eq := digit_digitsOf v }

/-- While enabled, the strobe selects one line and drives at most one segment (40_display.md R110). -/
theorem Inv.strobe (h : Inv p s) (hon : s.enabled = true) : Inv p (strobeC p (strobeB (strobeA s))) :=
  { h with
    dig_one := fun i j hi hj => by
      simp only [strobeC_dig, strobeB_dig, onehot4_getLsbD, decide_eq_true_eq] at hi hj
      exact hi.trans hj.symm
    seg_zero := fun hdig => absurd hdig (onehot4_ne_zero _)
    dark := fun hoff => absurd (hon.symm.trans hoff) nofun
    seg_one := fun i j hi hj => by
      simp only [strobeC_seg, BitVec.getLsbD_and, Bool.and_eq_true, segMask_getLsbD, decide_eq_true_eq] at hi hj
      exact hi.2.trans hj.2.symm }

theorem Inv.advanceScan (h : Inv p s) : Inv p (advanceScan s) := by
  unfold Machine.advanceScan
  split
  · exact { h with }
  · exact { h with }

theorem Inv.refreshTick (h : Inv p s) : Inv p (refreshTick p s) := by
  cases hon : s.enabled with
  | false => rwa [refreshTick_off hon]
  | true =>
    rw [refreshTick_on hon]
    exact (h.strobe hon).advanceScan

theorem Inv.countCapture (hp : p.InRange) (h : Inv p s) : Inv p (countCapture p s) :=
  { h with
    ccnt_lt := by
      rw [countCapture_ccnt, ccntInc_toNat hp]
      exact Nat.mod_lt _ (Nat.two_pow_pos _) }

theorem Inv.acceptEdge (h : Inv p s) (e : EdgePhase) : Inv p (acceptEdge e s) :=
  { h with ccnt_lt := Nat.two_pow_pos _ }

theorem Inv.risingEdge (h : Inv p s) : Inv p (risingEdge s) := by
  cases hphase : s.edgePhase with
  | armedRising =>
    rw [risingEdge_armed hphase]
    exact h.acceptEdge _
  | armedFalling => rwa [risingEdge_ignored hphase]

/-- A measured width fits `CNT_BITS` (41_capture.md R131). -/
theorem pulseWidth_lt (hp : p.InRange) (c : Word) : (pulseWidth p c).toNat < 2 ^ p.cntBits := by
  have hlt : ((pulseWidth p c).toNat : Int) < (2 : Int) ^ p.cntBits := by
    rw [pulseWidth_toNat hp]
    exact Int.emod_lt_of_pos _ (by positivity)
  exact_mod_cast hlt

theorem Inv.fallingEdge (hp : p.InRange) (h : Inv p s) : Inv p (fallingEdge p s) := by
  cases hphase : s.edgePhase with
  | armedRising => rwa [fallingEdge_ignored hphase]
  | armedFalling =>
    rw [fallingEdge_armed hphase]
    exact { h.acceptEdge .armedRising with width_lt := pulseWidth_lt hp s.ccnt }

theorem Inv.writeCompare (h : Inv p s) {d : Word} (hd : d.toNat < 2 ^ p.pwmBits) : Inv p (writeCompare d s) :=
  { h with cmp_lt := hd }

theorem Inv.countPwm (h : Inv p s) : Inv p (countPwm p s) :=
  { h with cnt_le := pwmCntInc_le h.cnt_le }

theorem Inv.quiet (h : Inv p s) : Inv p (quiet s) := h.of_block_eq (block_quiet s)

theorem Inv.respond (h : Inv p s) (v : Word) : Inv p (respond v s) := h.of_block_eq (block_respond s v)

theorem Inv.placeInputs (h : Inv p s) (xs : List StepWord) : Inv p (placeInputs xs s) := h.of_block_eq rfl

end updates

/-! ### The invariant in every step and every run -/

/-- Every well-formed operation keeps the invariant. -/
theorem Inv.effect {i : Instr} {s : State} (hwf : i.wellFormed hw = true) (h : Inv hw s) : Inv hw (effect i s) := by
  cases i with
  | enable => exact h.setEnabled_true.quiet
  | disable => exact (h.blankOutputs_setEnabled false).quiet
  | setval d => exact (h.storeValue (clampValue_le d)).quiet
  | setpwm d => exact (h.writeCompare (of_decide_eq_true hwf)).quiet
  | tick => exact h.refreshTick.quiet
  | ctick => exact (h.countCapture hw_inRange).quiet
  | ptick => exact h.countPwm.quiet
  | edgeR => exact h.risingEdge.quiet
  | edgeF => exact (h.fallingEdge hw_inRange).quiet
  | reset => exact (Inv.at_reset hw).of_block_eq rfl
  | rdCtrl | rdValue | rdDigits | rdScan | rdCapw | rdCaps | rdPwmc => exact h.respond _

/-- Everything a step can do when it answers a next state: nothing with no input waiting, else the operation of the first
word (20_memory.md R59). -/
theorem step_cases {s t : State} (h : step s = .next t) :
    (s.inputs = [] ∧ t = s) ∨
    ∃ w rest i, s.inputs = w :: rest ∧ decode hw w = .ok i ∧ t = effect i (placeInputs rest s) := by
  cases hin : s.inputs with
  | nil =>
    simp only [step, fetch, hin] at h
    injection h with h
    exact .inl ⟨rfl, h.symm⟩
  | cons w rest =>
    rw [step_of_inputs_cons hin] at h
    cases hdec : decode hw w with
    | ok i =>
      rw [runWord_of_decode_ok hdec] at h
      obtain ⟨-, ht⟩ := exec_cases h
      exact .inr ⟨w, rest, i, rfl, hdec, ht⟩
    | error e =>
      rw [runWord_of_decode_error hdec] at h
      cases h

/-- Settles O31: a step is a well-formed operation or nothing, and each such operation keeps the invariant. -/
theorem stepKeepsTheInvariant : Obligations.StepKeepsTheInvariant := by
  intro s t hs hstep
  obtain ⟨-, rfl⟩ | ⟨w, rest, i, -, hdec, rfl⟩ := step_cases hstep
  · exact hs
  · exact (hs.placeInputs rest).effect (wellFormed_of_decode hw_inRange hdec)

/-- The induction over a run of step words: what every well-formed operation keeps, the run keeps. -/
theorem feedAll_keeps {P : State → Prop} (keep : ∀ i s, i.wellFormed hw = true → P s → P (effect i s))
    (ws : List StepWord) {r : Run} (hr : P r.state) : P (feedAll r ws).state := by
  induction ws generalizing r with
  | nil => exact hr
  | cons w ws ih =>
    have hfeed : P (feed r w).state := by
      cases hdec : decode hw w with
      | ok i =>
        rw [feed_of_decode_ok hdec]
        exact keep i _ (wellFormed_of_decode hw_inRange hdec) hr
      | error e => rwa [feed_of_decode_error hdec]
    exact ih hfeed

/-- Every state a run from power-up reaches meets the invariant (70_reset_and_hazards.md R231, R236). -/
theorem Inv.reachable (ws : List StepWord) : Inv hw (feedAll powerUp ws).state :=
  feedAll_keeps (fun _ _ hwf h => h.effect hwf) ws (Inv.at_reset hw)

/-- Settles O32: these are parts of the invariant. -/
theorem reachableStatesDecomposeAndStayDark : Obligations.ReachableStatesDecomposeAndStayDark := fun ws =>
  have h := Inv.reachable ws
  ⟨h.digits_eq, h.value_le, h.dig_one, h.seg_zero, h.dark⟩

/-! ### The operations that may write each field (R38) -/

section writers

variable {i : Instr}

theorem effect_value (h : i ≠ .reset ∧ ∀ d, i ≠ .setval d) (s : State) :
    (effect i s).digits = s.digits ∧ (effect i s).displayedValue = s.displayedValue := by
  cases i with
  | reset | setval => simp at h
  | _ => simp [effect]

theorem effect_enabled (h : i ≠ .reset ∧ i ≠ .enable ∧ i ≠ .disable) (s : State) :
    (effect i s).enabled = s.enabled := by
  cases i with
  | reset | enable | disable => simp at h
  | _ => simp [effect]

theorem effect_position (h : i ≠ .reset ∧ i ≠ .tick) (s : State) :
    (effect i s).activeDigit = s.activeDigit ∧ (effect i s).activeSegment = s.activeSegment := by
  cases i with
  | reset | tick => simp at h
  | _ => simp [effect]

theorem effect_outputs (h : i ≠ .reset ∧ i ≠ .tick ∧ i ≠ .disable) (s : State) :
    (effect i s).dig = s.dig ∧ (effect i s).seg = s.seg := by
  cases i with
  | reset | tick | disable => simp at h
  | _ => simp [effect]

theorem effect_edgePhase (h : i ≠ .reset ∧ i ≠ .edgeR ∧ i ≠ .edgeF) (s : State) :
    (effect i s).edgePhase = s.edgePhase := by
  cases i with
  | reset | edgeR | edgeF => simp at h
  | _ => simp [effect]

theorem effect_lastPulseWidth (h : i ≠ .reset ∧ i ≠ .edgeF) (s : State) :
    (effect i s).lastPulseWidth = s.lastPulseWidth := by
  cases i with
  | reset | edgeF => simp at h
  | _ => simp [effect]

theorem effect_ccnt (h : i ≠ .reset ∧ i ≠ .edgeR ∧ i ≠ .edgeF ∧ i ≠ .ctick) (s : State) :
    (effect i s).ccnt = s.ccnt := by
  cases i with
  | reset | edgeR | edgeF | ctick => simp at h
  | _ => simp [effect]

theorem effect_pwmCmp (h : i ≠ .reset ∧ ∀ d, i ≠ .setpwm d) (s : State) : (effect i s).pwmCmp = s.pwmCmp := by
  cases i with
  | reset | setpwm => simp at h
  | _ => simp [effect]

theorem effect_pwmCnt (h : i ≠ .reset ∧ i ≠ .ptick) (s : State) : (effect i s).pwmCnt = s.pwmCnt := by
  cases i with
  | reset | ptick => simp at h
  | _ => simp [effect]

end writers

/-- A field that no operation of a run writes has the same value after the run. -/
theorem runOps_keeps_field {α : Type} {field : State → α} {ops : List Instr} {s t : State}
    (hrun : runOps ops s = .next t) (keep : ∀ i ∈ ops, ∀ u, field (effect i u) = field u) : field t = field s :=
  runOps_keeps (P := fun u => field u = field s) (fun i hi u hu => (keep i hi u).trans hu) hrun rfl

/-- Settles O33, field by field. -/
theorem displayFieldsHaveOnlyTheirWriters : Obligations.DisplayFieldsHaveOnlyTheirWriters := fun _ops _s _t hrun =>
  ⟨fun h => ⟨runOps_keeps_field hrun fun i hi u => (effect_value (h i hi) u).1,
      runOps_keeps_field hrun fun i hi u => (effect_value (h i hi) u).2⟩,
    fun h => runOps_keeps_field hrun fun i hi => effect_enabled (h i hi),
    fun h => ⟨runOps_keeps_field hrun fun i hi u => (effect_position (h i hi) u).1,
      runOps_keeps_field hrun fun i hi u => (effect_position (h i hi) u).2⟩,
    fun h => ⟨runOps_keeps_field hrun fun i hi u => (effect_outputs (h i hi) u).1,
      runOps_keeps_field hrun fun i hi u => (effect_outputs (h i hi) u).2⟩⟩

/-- Settles O34, field by field. -/
theorem captureAndPwmFieldsHaveOnlyTheirWriters : Obligations.CaptureAndPwmFieldsHaveOnlyTheirWriters :=
  fun _ops _s _t hrun =>
    ⟨fun h => runOps_keeps_field hrun fun i hi => effect_edgePhase (h i hi),
      fun h => runOps_keeps_field hrun fun i hi => effect_lastPulseWidth (h i hi),
      fun h => runOps_keeps_field hrun fun i hi => effect_ccnt (h i hi),
      fun h => runOps_keeps_field hrun fun i hi => effect_pwmCmp (h i hi),
      fun h => runOps_keeps_field hrun fun i hi => effect_pwmCnt (h i hi)⟩

/-! ### The hidden counters (R39) -/

/-- The state with other values in the two counters that no register shows. -/
def withCounters (c : Word) (n : Nat) (s : State) : State := { s with ccnt := c, pwmCnt := n }

@[simp] theorem withCounters_readResult (c : Word) (n : Nat) (s : State) :
    (withCounters c n s).readResult = s.readResult := rfl

section withCounters

variable (c : Word) (n : Nat) (s : State)

theorem advanceScan_withCounters : advanceScan (withCounters c n s) = withCounters c n (advanceScan s) := by
  by_cases h : s.activeSegment = 6
  · simp [advanceScan, withCounters, h]
  · simp [advanceScan, withCounters, h]

theorem refreshTick_withCounters (p : Params) :
    refreshTick p (withCounters c n s) = withCounters c n (refreshTick p s) := by
  cases h : s.enabled with
  | false => rw [refreshTick_off h, refreshTick_off (s := withCounters c n s) h]
  | true =>
    rw [refreshTick_on h, refreshTick_on (s := withCounters c n s) h]
    exact advanceScan_withCounters c n (strobeC p (strobeB (strobeA s)))

/-- Only an accepted falling edge lets a counter into a field that is not one (41_capture.md R131). -/
theorem effect_withCounters {i : Instr} (h : i ≠ .edgeF) :
    ∃ c' n', effect i (withCounters c n s) = withCounters c' n' (effect i s) := by
  cases i with
  | edgeF => exact absurd rfl h
  | ctick => exact ⟨ccntInc hw c, n, rfl⟩
  | ptick => exact ⟨c, pwmCntInc hw n, rfl⟩
  | reset => exact ⟨0, 0, rfl⟩
  | tick => exact ⟨c, n, congrArg quiet (refreshTick_withCounters c n s hw)⟩
  | edgeR =>
    cases hphase : s.edgePhase with
    | armedRising =>
      refine ⟨0, n, ?_⟩
      rw [effect, effect, risingEdge_armed hphase, risingEdge_armed (s := withCounters c n s) hphase]
      rfl
    | armedFalling =>
      refine ⟨c, n, ?_⟩
      rw [effect, effect, risingEdge_ignored hphase, risingEdge_ignored (s := withCounters c n s) hphase]
      rfl
  | _ => exact ⟨c, n, rfl⟩

end withCounters

/-- The word of an operation that is not well-formed is reserved (30_encoding.md R76). -/
theorem decode_encode_of_not_wellFormed {p : Params} (hp : p.InRange) {i : Instr} (h : ¬ i.wellFormed p = true) :
    decode p (encode i) = .error .pwmcReservedBits := by
  cases i with
  | setpwm d =>
    rw [← fitsPwm_eq_wellFormed hp] at h
    rw [encode, decode_hostWriteWord]
    exact if_neg h
  | _ => exact absurd rfl h

/-- Two runs that differ in the counters only give the same read results over operations with no falling edge. -/
theorem feedAll_withCounters_reads {ops : List Instr} (h : .edgeF ∉ ops) (c : Word) (n : Nat) (s : State)
    (reads : List Word) (mark : Bool) :
    (feedAll ⟨withCounters c n s, reads, mark⟩ (ops.map encode)).reads =
      (feedAll ⟨s, reads, mark⟩ (ops.map encode)).reads := by
  induction ops generalizing c n s reads mark with
  | nil => rfl
  | cons i ops ih =>
    obtain ⟨hi, hops⟩ := not_or.mp (mt List.mem_cons.mpr h)
    simp only [List.map_cons, feedAll, List.foldl_cons]
    by_cases hwf : i.wellFormed hw = true
    · obtain ⟨c', n', heffect⟩ := effect_withCounters c n s (Ne.symm hi)
      simp only [feed_of_decode_ok (decode_encode hw_inRange hwf), heffect, withCounters_readResult]
      exact ih hops c' n' _ _ _
    · simp only [feed_of_decode_error (decode_encode_of_not_wellFormed hw_inRange hwf)]
      exact ih hops c n s reads true

/-- Settles O37: `withCounters` is the update the statement writes out. -/
theorem readsDoNotShowTheHiddenCounters : Obligations.ReadsDoNotShowTheHiddenCounters :=
  fun _ops s c n reads mark h => feedAll_withCounters_reads h c n s reads mark

/-! ### DIGITS read as decimal (R43) -/

/-- Read as decimal, the nibbles of DIGITS are the digits by their decimal weights. -/
theorem regDigits_decimal (s : State) :
    (regDigits s).toNat % 16 + 10 * ((regDigits s).toNat / 16 % 16) + 100 * ((regDigits s).toNat / 256 % 16) +
        1000 * ((regDigits s).toNat / 4096 % 16) =
      s.digits.d0.val + 10 * s.digits.d1.val + 100 * s.digits.d2.val + 1000 * s.digits.d3.val := by
  rw [regDigits_toNat]
  omega

/-- A value of at most four digits is the weighted sum of its digits (40_display.md R103). -/
theorem digitsOf_weightedSum {v : Nat} (h : v ≤ 9999) :
    (digitsOf v).d0.val + 10 * (digitsOf v).d1.val + 100 * (digitsOf v).d2.val + 1000 * (digitsOf v).d3.val = v := by
  simp only [digitsOf, decimalDigit_val]
  omega

/-- Settles O47: DIGITS read as decimal is the weighted sum of the stored digits, which is the clamped value. -/
theorem digitsReadAsDecimalTheValue : Obligations.DigitsReadAsDecimalTheValue := fun _s d =>
  ⟨_, _, rfl, rfl, (regDigits_decimal _).trans (digitsOf_weightedSum (clampValue_le d))⟩

/-! ### The register map (R40, R48) -/

/-- A register index is reserved or one of the seven defined ones. -/
theorem index_cases (a : Index) :
    7 ≤ a.toNat ∨ a = 0 ∨ a = 1 ∨ a = 2 ∨ a = 3 ∨ a = 4 ∨ a = 5 ∨ a = 6 := by
  revert a; decide

section reserved

variable {a : Index} (h : 7 ≤ a.toNat)

include h

theorem regRead_reserved (s : State) : regRead a s = none := by
  unfold regRead
  split
  case h_8 => rfl
  all_goals omega

theorem decodeRead_reserved : decodeRead a 0 = .error .readReservedRegister := by
  unfold decodeRead
  split
  · next hdata => exact absurd rfl hdata
  · split
    case h_8 => rfl
    all_goals omega

theorem decodeWrite_reserved (p : Params) (d : Word) : decodeWrite p a d = .error .writeReservedRegister := by
  unfold decodeWrite
  split
  case h_8 => rfl
  all_goals omega

end reserved

/-- A defined index has a read operation, and its result is the register. -/
theorem readOperation_of_regRead {a : Index} {s : State} {v : Word} (h : regRead a s = some v) :
    ∃ i, decodeRead a 0 = .ok i ∧ effect i s = respond v s := by
  obtain ha | rfl | rfl | rfl | rfl | rfl | rfl | rfl := index_cases a
  · exact absurd ((regRead_reserved ha s).symm.trans h) nofun
  all_goals
    obtain rfl := Option.some.inj h
    exact ⟨_, rfl, rfl⟩

theorem regRead_eq_none_iff (a : Index) (s : State) : regRead a s = none ↔ 7 ≤ a.toNat := by
  refine ⟨fun h => ?_, fun h => regRead_reserved h s⟩
  obtain ha | rfl | rfl | rfl | rfl | rfl | rfl | rfl := index_cases a
  · exact ha
  all_goals cases h

/-- A host read of a defined index answers `R[A]` (R40). -/
theorem runWord_hostReadWord {a : Index} {s : State} {v : Word} (h : regRead a s = some v) :
    runWord (hostReadWord a) s = .next (respond v s) := by
  obtain ⟨i, hread, heffect⟩ := readOperation_of_regRead h
  have hdec : decode hw (hostReadWord a) = .ok i := (decode_hostReadWord hw a).trans hread
  rw [runWord_of_decode_ok hdec, exec_next (wellFormed_of_decode hw_inRange hdec), heffect]

/-- Settles O56: a defined index answers its register, and a reserved one decodes to nothing. -/
theorem readsFollowTheRegisterMap : Obligations.ReadsFollowTheRegisterMap := by
  intro a s
  refine ⟨regRead_eq_none_iff a s, fun v hv => ⟨_, runWord_hostReadWord hv, block_respond s v, rfl⟩,
    fun ha => ⟨?_, fun d => ?_⟩⟩
  · exact runWord_of_decode_error ((decode_hostReadWord hw a).trans (decodeRead_reserved ha)) s
  · exact runWord_of_decode_error ((decode_hostWriteWord hw a d).trans (decodeWrite_reserved ha hw d)) s

end Sys2Proof.Machine

/-!
PROOF. The statements on the host's accesses (20_memory.md): the step words of the register window, TOGGLE with other agents'
steps between its read and its write, the idempotence of host accesses, and the lemmas they rest on.
-/

namespace Sys2Proof.Machine

/-! ### Host accesses and their step words (R50, R52, R53) -/

/-- The step word of a host access to register `a` (30_encoding.md R71). -/
def accessWord (x : HostAccess) (a : Index) : StepWord :=
  if x.write then hostWriteWord a x.data else hostReadWord a

theorem accessWord_toNat (x : HostAccess) (a : Index) :
    (accessWord x a).toNat =
      if x.write = true then 0x800000 + 65536 * a.toNat + x.data.toNat else 65536 * a.toNat := by
  unfold accessWord
  split
  · exact hostWriteWord_toNat a x.data
  · exact hostReadWord_toNat a

theorem eq_accessWord_iff {w : StepWord} {x : HostAccess} {a : Index} :
    w = accessWord x a ↔
      w.toNat = if x.write = true then 0x800000 + 65536 * a.toNat + x.data.toNat else 65536 * a.toNat := by
  rw [← BitVec.toNat_inj, accessWord_toNat]

/-- A 16-bit access at the address of register `a` has that register's word. -/
theorem stepWordOf_regAddr {p : Params} {x : HostAccess} {a : Index} (hbytes : x.bytes = 2)
    (haddr : x.addr = regAddr p a) : stepWordOf p x = .ok (accessWord x a) := by
  have ha := a.isLt
  have hoffset : x.addr - p.blockBase = 2 * a.toNat := by rw [haddr, regAddr]; omega
  have hwindow : ¬(x.addr < p.blockBase ∨ p.blockBase + 32 ≤ x.addr) := by rw [haddr, regAddr]; omega
  have haligned : ¬(2 * a.toNat) % 2 = 1 := by omega
  have hindex : BitVec.ofNat 4 (2 * a.toNat / 2) = a := by
    rw [Nat.mul_div_cancel_left _ (by decide), BitVec.ofNat_toNat, BitVec.setWidth_eq]
  rw [stepWordOf, if_neg (not_not.mpr hbytes), if_neg hwindow, hoffset, if_neg haligned, hindex]
  rfl

/-- An access that has a step word is a 16-bit one at the address of a register. -/
theorem regAddr_of_stepWordOf {p : Params} {x : HostAccess} {w : StepWord} (h : stepWordOf p x = .ok w) :
    x.bytes = 2 ∧ ∃ a, x.addr = regAddr p a := by
  unfold stepWordOf at h
  split at h
  · cases h
  · next hbytes =>
    split at h
    · cases h
    · next hwindow =>
      split at h
      · cases h
      · next haligned =>
        refine ⟨not_not.mp hbytes, BitVec.ofNat 4 ((x.addr - p.blockBase) / 2), ?_⟩
        rw [regAddr, BitVec.toNat_ofNat]
        omega

/-- Exactly the aligned 16-bit accesses in the window have a step word. -/
theorem stepWordOf_eq_ok_iff {p : Params} {x : HostAccess} {w : StepWord} :
    stepWordOf p x = .ok w ↔ x.bytes = 2 ∧ ∃ a, x.addr = regAddr p a ∧ w = accessWord x a := by
  constructor
  · intro h
    obtain ⟨hbytes, a, haddr⟩ := regAddr_of_stepWordOf h
    rw [stepWordOf_regAddr hbytes haddr] at h
    exact ⟨hbytes, a, haddr, (Except.ok.inj h).symm⟩
  · rintro ⟨hbytes, a, haddr, rfl⟩
    exact stepWordOf_regAddr hbytes haddr

/-- An access with no step word is refused when it is delivered (notes/assumptions/18.md). -/
theorem deliverAccess_of_no_stepWord {x : HostAccess} (h : ¬∃ w, stepWordOf hw x = .ok w) (s : State) :
    ∃ r, deliverAccess x s = .refused (.noStepWord r) := by
  cases hword : stepWordOf hw x with
  | ok w => exact absurd ⟨w, hword⟩ h
  | error r => exact ⟨r, by simp only [deliverAccess, hword]⟩

/-- Settles O57: the words of the aligned accesses as numbers. -/
theorem alignedWordAccessesFormStepWords : Obligations.AlignedWordAccessesFormStepWords := by
  intro p x
  refine ⟨fun w => ?_, deliverAccess_of_no_stepWord⟩
  simp only [stepWordOf_eq_ok_iff, eq_accessWord_iff, regAddr]

/-! ### TOGGLE (R62) -/

/-- Only the host's operations have operands that may not fit (30_encoding.md R73). -/
theorem wellFormed_of_not_host (p : Params) {i : Instr} (h : agentOf i ≠ .host) : i.wellFormed p = true := by
  cases i with
  | setpwm => exact absurd rfl h
  | _ => rfl

/-- The other agents' steps return nothing (00_scope.md R17). -/
theorem effect_readResult_of_not_host {i : Instr} (h : agentOf i ≠ .host) (s : State) :
    (effect i s).readResult = none := by
  cases i with
  | tick | ctick | ptick | edgeR | edgeF | reset => rfl
  | _ => exact absurd rfl h

theorem feed_encode {i : Instr} (h : i.wellFormed hw = true) (r : Run) :
    feed r (encode i) = ⟨effect i r.state, r.reads ++ (effect i r.state).readResult.toList, r.refused⟩ :=
  feed_of_decode_ok (decode_encode hw_inRange h) r

/-- The other agents' steps leave what the host has read and the mark as they are (R62). -/
theorem feedAll_events {events : List Instr} (h : ∀ i ∈ events, agentOf i ≠ .host) (r : Run) :
    (feedAll r (events.map encode)).reads = r.reads ∧ (feedAll r (events.map encode)).refused = r.refused := by
  induction events generalizing r with
  | nil => exact ⟨rfl, rfl⟩
  | cons i events ih =>
    obtain ⟨hi, hevents⟩ := List.forall_mem_cons.mp h
    obtain ⟨hreads, hrefused⟩ := ih hevents (feed r (encode i))
    have hfeed := feed_encode (wellFormed_of_not_host hw hi) r
    rw [effect_readResult_of_not_host hi, Option.toList_none, List.append_nil] at hfeed
    exact ⟨hreads.trans (by rw [hfeed]), hrefused.trans (by rw [hfeed])⟩

theorem play_append (r : Run) (xs ys : List ProgStep) : play r (xs ++ ys) = play (play r xs) ys :=
  List.foldl_append

/-- Words of a program are fed one after another. -/
theorem play_map_word (r : Run) (ws : List StepWord) : play r (ws.map .word) = feedAll r ws :=
  List.foldl_map

/-- TOGGLE's write after a read that found `enabled` at `b` (30_encoding.md R84): it leaves the opposite, and no mark. -/
theorem playStep_toggleWrite {r : Run} {b : Bool} (h : r.reads.getLastD 0 = if b then 1 else 0) :
    (playStep r .toggleWrite).state.enabled = !b ∧ (playStep r .toggleWrite).refused = r.refused := by
  have hword : playStep r .toggleWrite = feed r (encode (if b then .disable else .enable)) := by
    rw [playStep, h]
    cases b <;> rfl
  cases b
  all_goals
    rw [hword, feed_encode rfl]
    exact ⟨rfl, rfl⟩

/-- Settles O58: the events between keep the result of the read, from which the write is computed. -/
theorem toggleFlipsEnabledAcrossEvents : Obligations.ToggleFlipsEnabledAcrossEvents := by
  intro r events hevents
  have hread : feed r (hostReadWord 0) = ⟨respond (regCtrl r.state) r.state, r.reads ++ [regCtrl r.state], r.refused⟩ :=
    feed_encode (i := .rdCtrl) rfl r
  obtain ⟨hreads, hrefused⟩ := feedAll_events hevents (feed r (hostReadWord 0))
  rw [hread] at hreads hrefused
  have hlast : (feedAll (feed r (hostReadWord 0)) (events.map encode)).reads.getLastD 0 =
      if r.state.enabled then 1 else 0 := by
    rw [hread, hreads, List.getLastD_concat]
    rfl
  obtain ⟨henabled, hmark⟩ := playStep_toggleWrite hlast
  have hplay : play r (.word (hostReadWord 0) :: events.map (fun i => .word (encode i)) ++ [.toggleWrite]) =
      playStep (feedAll (feed r (hostReadWord 0)) (events.map encode)) .toggleWrite := by
    rw [play_append, ← play_map_word, List.map_map]
    rfl
  rw [hplay]
  exact ⟨henabled, hmark.trans (by rw [hread, hrefused])⟩

/-! ### Idempotence (R56) -/

/-- A host operation done twice leaves the state of doing it once. -/
theorem effect_effect_of_host {i : Instr} (h : agentOf i = .host) (s : State) :
    effect i (effect i s) = effect i s := by
  cases i with
  | tick | ctick | ptick | edgeR | edgeF | reset => cases h
  | _ => rfl

/-- A read answers a value and does nothing else. -/
theorem effect_of_isRead {i : Instr} (h : isRead i = true) (s : State) : ∃ v, effect i s = respond v s := by
  cases i with
  | rdCtrl | rdValue | rdDigits | rdScan | rdCapw | rdCaps | rdPwmc => exact ⟨_, rfl⟩
  | _ => cases h

/-- Settles O38: the effect of a host operation is idempotent, and that of a read is its answer. -/
theorem hostAccessesAreIdempotent : Obligations.HostAccessesAreIdempotent := by
  intro i s hhost hwf
  refine ⟨⟨effect i s, ?_, ?_⟩, fun hread => ?_⟩
  · rw [runOps_cons hwf, runOps_nil]
  · rw [runOps_cons hwf, runOps_cons hwf, effect_effect_of_host hhost, runOps_nil]
  · obtain ⟨v, hv⟩ := effect_of_isRead hread s
    exact ⟨respond v s, v, by rw [exec_next hwf, hv], block_respond s v, rfl⟩

end Sys2Proof.Machine

/-!
PROOF. The statements on the encoding (30_encoding.md): decode and encode as inverses, the words of the opcode maps R74 and
R75, the reserved words of R78, lines of the assembler, and the lemmas they rest on.
-/

namespace Sys2Proof.Machine

/-- Settles O3, by `decode_encode`. -/
theorem decodeOfEncodeIsTheOperation : Obligations.DecodeOfEncodeIsTheOperation :=
  fun _p hp _i h => decode_encode hp h

/-! ### A word is built from its fields (R70 to R72) -/

section fields

variable {w : StepWord}

theorem eq_hostWriteWord (hcls : (clsField w).toNat = 0) (hwrite : wField w = true) :
    w = hostWriteWord (aField w) (dField w) := by
  have hfields := toNat_eq_fields w
  rw [hcls, hwrite, Bool.toNat_true] at hfields
  apply BitVec.eq_of_toNat_eq
  rw [hostWriteWord_toNat]
  omega

theorem eq_hostReadWord (hcls : (clsField w).toNat = 0) (hwrite : wField w = false) (hd : dField w = 0) :
    w = hostReadWord (aField w) := by
  have hfields := toNat_eq_fields w
  rw [hcls, hwrite, hd, Bool.toNat_false, show BitVec.toNat (0 : Word) = 0 from rfl] at hfields
  apply BitVec.eq_of_toNat_eq
  rw [hostReadWord_toNat]
  omega

theorem eq_eventWord (hcls : (clsField w).toNat = 1) (hwrite : wField w = false) :
    w = eventWord (aField w) (dField w) := by
  have hfields := toNat_eq_fields w
  rw [hcls, hwrite, Bool.toNat_false] at hfields
  apply BitVec.eq_of_toNat_eq
  rw [eventWord_toNat]
  omega

end fields

/-! ### Encoding undoes decoding (R76) -/

theorem decodeWrite_ctrl (p : Params) (d : Word) :
    decodeWrite p 0 d = if d = 1 then .ok .enable else if d = 0 then .ok .disable else .error .ctrlReservedBits := rfl

theorem decodeWrite_pwmc (p : Params) (d : Word) :
    decodeWrite p 6 d = if fitsPwm p d then .ok (.setpwm d) else .error .pwmcReservedBits := rfl

theorem encode_of_decodeWrite {p : Params} {a : Index} {d : Word} {i : Instr} (h : decodeWrite p a d = .ok i) :
    encode i = hostWriteWord a d := by
  obtain ha | rfl | rfl | rfl | rfl | rfl | rfl | rfl := index_cases a
  · rw [decodeWrite_reserved ha] at h
    cases h
  · rw [decodeWrite_ctrl] at h
    split at h
    · next hd => cases h; rw [hd]; rfl
    · split at h
      · next hd => cases h; rw [hd]; rfl
      · cases h
  · cases h; rfl
  iterate 4 cases h
  · rw [decodeWrite_pwmc] at h
    split at h
    · cases h; rfl
    · cases h

theorem decodeRead_nonzero {a : Index} {d : Word} (hd : d ≠ 0) : decodeRead a d = .error .readNonzeroData := if_pos hd

theorem encode_of_decodeRead {a : Index} {d : Word} {i : Instr} (h : decodeRead a d = .ok i) :
    d = 0 ∧ encode i = hostReadWord a := by
  by_cases hd : d = 0
  · subst hd
    refine ⟨rfl, ?_⟩
    obtain ha | rfl | rfl | rfl | rfl | rfl | rfl | rfl := index_cases a
    · rw [decodeRead_reserved ha] at h
      cases h
    all_goals cases h; rfl
  · rw [decodeRead_nonzero hd] at h
    cases h

theorem eventWord_congr {e e' : Index} {d d' : Word} (he : e.toNat = e'.toNat) (hd : d.toNat = d'.toNat) :
    eventWord e d = eventWord e' d' := by
  rw [BitVec.eq_of_toNat_eq he, BitVec.eq_of_toNat_eq hd]

theorem encode_of_decodeEvent {b : Bool} {e : Index} {d : Word} {i : Instr} (h : decodeEvent b e d = .ok i) :
    b = false ∧ encode i = eventWord e d := by
  unfold decodeEvent at h
  split at h
  · cases h
  · next hb =>
    refine ⟨eq_false_of_ne_true hb, ?_⟩
    split at h
    case h_7 => cases h
    all_goals
      next he hd =>
        cases h
        exact (eventWord_congr he hd).symm

/-- A word that decodes is the encoding of its operation (30_encoding.md R76). -/
theorem encode_of_decode {p : Params} {w : StepWord} {i : Instr} (h : decode p w = .ok i) : encode i = w := by
  unfold decode at h
  split at h
  · next hcls =>
    split at h
    · next hwrite => rw [encode_of_decodeWrite h, ← eq_hostWriteWord hcls hwrite]
    · next hwrite =>
      obtain ⟨hd, hi⟩ := encode_of_decodeRead h
      rw [hi, ← eq_hostReadWord hcls (eq_false_of_ne_true hwrite) hd]
  · next hcls =>
    obtain ⟨hwrite, hi⟩ := encode_of_decodeEvent h
    rw [hi, ← eq_eventWord hcls hwrite]
  · cases h

/-- Settles O4: with `wellFormed_of_decode`, the other half of the round trip. -/
theorem decodedWordIsItsEncoding : Obligations.DecodedWordIsItsEncoding :=
  fun _p hp _w _i h => ⟨encode_of_decode h, wellFormed_of_decode hp h⟩

/-! ### The words of each operation (R74, R75) -/

/-- The decoder reads an operation from its encoding and from no other word. -/
theorem decode_eq_ok_iff {p : Params} (hp : p.InRange) {w : StepWord} {i : Instr} :
    decode p w = .ok i ↔ w = encode i ∧ i.wellFormed p = true := by
  refine ⟨fun h => ⟨(encode_of_decode h).symm, wellFormed_of_decode hp h⟩, ?_⟩
  rintro ⟨rfl, h⟩
  exact decode_encode hp h

/-- The word of an operation that exists whatever the parameters are. -/
theorem decode_eq_ok_iff_of_wellFormed {p : Params} (hp : p.InRange) {w : StepWord} {i : Instr}
    (hwf : i.wellFormed p = true) : decode p w = .ok i ↔ w = encode i := by
  rw [decode_eq_ok_iff hp, and_iff_left hwf]

/-- The data field of a host write is the low bits of its word (R71). -/
theorem hostWriteWord_eq_or (a : Index) (d : Word) : hostWriteWord a d = hostWriteWord a 0 ||| d.setWidth 24 := by
  have hd := d.isLt
  have hhigh : 0x800000 + 2 ^ 16 * a.toNat = 2 ^ 16 * (128 + a.toNat) := by omega
  apply BitVec.eq_of_toNat_eq
  rw [BitVec.toNat_or, BitVec.toNat_setWidth_of_le (by decide), hostWriteWord_toNat, hostWriteWord_toNat, hhigh]
  exact Nat.two_pow_add_eq_or_of_lt hd _

/-- Settles O2: each word of the opcode maps is the encoding of its operation. -/
theorem opcodeMapIsExact : Obligations.OpcodeMapIsExact := by
  intro p hp w
  have fixed : ∀ {i : Instr}, i.wellFormed p = true → (decode p w = .ok i ↔ w = encode i) :=
    decode_eq_ok_iff_of_wellFormed hp
  have hpwm (d : Word) :
      decode p w = .ok (.setpwm d) ↔ w = 0x860000#24 ||| d.setWidth 24 ∧ d.toNat < 2 ^ p.pwmBits := by
    rw [decode_eq_ok_iff hp, encode, hostWriteWord_eq_or]
    exact and_congr_right' decide_eq_true_iff
  have hval (d : Word) : decode p w = .ok (.setval d) ↔ w = 0x810000#24 ||| d.setWidth 24 := by
    rw [fixed rfl, encode, hostWriteWord_eq_or]
    rfl
  exact ⟨fixed rfl, fixed rfl, fixed rfl, hval, fixed rfl, fixed rfl, fixed rfl, fixed rfl, fixed rfl, hpwm, fixed rfl,
    fixed rfl, fixed rfl, fixed rfl, fixed rfl, fixed rfl, fixed rfl⟩

/-! ### The reserved words (R78) -/

/-- The reason of the first row of the table of R78 that a word is in, from its fields: the rows as O5 writes them. -/
def reservedReason (p : Params) (c a d : Nat) (write : Bool) : Option Reserved :=
  if c = 0 ∧ write = true ∧ a = 0 ∧ d ≠ 0 ∧ d ≠ 1 then some .ctrlReservedBits
  else if c = 0 ∧ write = true ∧ a = 6 ∧ 2 ^ p.pwmBits ≤ d then some .pwmcReservedBits
  else if c = 0 ∧ write = true ∧ (a = 2 ∨ a = 3 ∨ a = 4 ∨ a = 5) then some .writeReadOnly
  else if c = 0 ∧ write = true ∧ 7 ≤ a then some .writeReservedRegister
  else if c = 0 ∧ write = false ∧ d ≠ 0 then some .readNonzeroData
  else if c = 0 ∧ write = false ∧ 7 ≤ a then some .readReservedRegister
  else if c = 1 ∧ write = true then some .eventWithW
  else if c = 1 ∧ (5 ≤ a ∨ (a = 0 ∨ a = 1 ∨ a = 2 ∨ a = 4) ∧ d ≠ 0 ∨ a = 3 ∧ d ≠ 0 ∧ d ≠ 1) then some .reservedEvent
  else if 2 ≤ c then some .reservedClass
  else none

section reservedReason

variable (p : Params) (a d : Nat)

theorem reservedReason_write :
    reservedReason p 0 a d true =
      if a = 0 ∧ d ≠ 0 ∧ d ≠ 1 then some .ctrlReservedBits
      else if a = 6 ∧ 2 ^ p.pwmBits ≤ d then some .pwmcReservedBits
      else if a = 2 ∨ a = 3 ∨ a = 4 ∨ a = 5 then some .writeReadOnly
      else if 7 ≤ a then some .writeReservedRegister
      else none := by
  simp [reservedReason]

theorem reservedReason_read :
    reservedReason p 0 a d false =
      if d ≠ 0 then some .readNonzeroData else if 7 ≤ a then some .readReservedRegister else none := by
  simp [reservedReason]

theorem reservedReason_event (write : Bool) :
    reservedReason p 1 a d write =
      if write = true then some .eventWithW
      else if 5 ≤ a ∨ (a = 0 ∨ a = 1 ∨ a = 2 ∨ a = 4) ∧ d ≠ 0 ∨ a = 3 ∧ d ≠ 0 ∧ d ≠ 1 then some .reservedEvent
      else none := by
  simp [reservedReason]

theorem reservedReason_class {c : Nat} (hc : 2 ≤ c) (write : Bool) :
    reservedReason p c a d write = some .reservedClass := by
  have h0 : c ≠ 0 := by omega
  have h1 : c ≠ 1 := by omega
  simp [reservedReason, h0, h1, hc]

end reservedReason

/-- Why an outcome of the decoder has no operation, if it has none. -/
def rejection (x : Except Reserved Instr) : Option Reserved :=
  match x with
  | .ok _ => none
  | .error r => some r

theorem rejection_eq_some_iff {x : Except Reserved Instr} {r : Reserved} : rejection x = some r ↔ x = .error r := by
  cases x <;> simp [rejection]

theorem rejection_decodeWrite {p : Params} (hp : p.InRange) (a : Index) (d : Word) :
    rejection (decodeWrite p a d) = reservedReason p 0 a.toNat d.toNat true := by
  rw [reservedReason_write]
  obtain ha | rfl | rfl | rfl | rfl | rfl | rfl | rfl := index_cases a
  · rw [decodeWrite_reserved ha, if_neg (by omega), if_neg (by omega), if_neg (by omega), if_pos ha]
    rfl
  · rw [decodeWrite_ctrl]
    by_cases h1 : d = 1
    · subst h1
      rfl
    by_cases h0 : d = 0
    · subst h0
      rfl
    have hrow : d.toNat ≠ 0 ∧ d.toNat ≠ 1 := ⟨BitVec.toNat_ne_iff_ne.mpr h0, BitVec.toNat_ne_iff_ne.mpr h1⟩
    rw [if_neg h1, if_neg h0, if_pos ⟨rfl, hrow⟩]
    rfl
  iterate 5 rfl
  · rw [decodeWrite_pwmc]
    by_cases hfits : fitsPwm p d = true
    · have hlt := (fitsPwm_iff hp d).mp hfits
      rw [if_pos hfits, if_neg nofun, if_neg fun h => absurd h.2 (Nat.not_le.mpr hlt)]
      rfl
    · have hle := Nat.not_lt.mp (mt (fitsPwm_iff hp d).mpr hfits)
      rw [if_neg hfits, if_neg nofun, if_pos ⟨rfl, hle⟩]
      rfl

theorem rejection_decodeRead (p : Params) (a : Index) (d : Word) :
    rejection (decodeRead a d) = reservedReason p 0 a.toNat d.toNat false := by
  rw [reservedReason_read]
  by_cases hd : d = 0
  · subst hd
    have hzero : BitVec.toNat (0 : Word) = 0 := rfl
    obtain ha | rfl | rfl | rfl | rfl | rfl | rfl | rfl := index_cases a
    · rw [decodeRead_reserved ha, if_neg (not_not.mpr hzero), if_pos ha]
      rfl
    all_goals rfl
  · have hrow : d.toNat ≠ 0 := BitVec.toNat_ne_iff_ne.mpr hd
    rw [decodeRead_nonzero hd, if_pos hrow]
    rfl

theorem rejection_decodeEvent (p : Params) (b : Bool) (e : Index) (d : Word) :
    rejection (decodeEvent b e d) = reservedReason p 1 e.toNat d.toNat b := by
  rw [reservedReason_event]
  unfold decodeEvent
  cases b with
  | true => rfl
  | false =>
    simp only [Bool.false_eq_true, if_false]
    split
    case h_7 =>
      have hrow : 5 ≤ e.toNat ∨ (e.toNat = 0 ∨ e.toNat = 1 ∨ e.toNat = 2 ∨ e.toNat = 4) ∧ d.toNat ≠ 0 ∨
          e.toNat = 3 ∧ d.toNat ≠ 0 ∧ d.toNat ≠ 1 := by grind
      rw [if_pos hrow]
      rfl
    all_goals
      rw [if_neg (by omega)]
      rfl

/-- The decoder rejects a word exactly by the table of R78 (30_encoding.md R76). -/
theorem rejection_decode {p : Params} (hp : p.InRange) (w : StepWord) :
    rejection (decode p w) =
      reservedReason p (clsField w).toNat (aField w).toNat (dField w).toNat (wField w) := by
  unfold decode
  split
  · next hcls =>
    rw [hcls]
    split
    · next hwrite => rw [hwrite, rejection_decodeWrite hp]
    · next hwrite => rw [eq_false_of_ne_true hwrite, rejection_decodeRead p]
  · next hcls => rw [hcls, rejection_decodeEvent p]
  · next h0 h1 =>
    have hcls : 2 ≤ (clsField w).toNat := (Nat.two_le_iff _).mpr ⟨h0, h1⟩
    rw [reservedReason_class _ _ _ hcls]
    rfl

theorem feedAll_refused_of_refused {r : Run} (h : r.refused = true) (ws : List StepWord) :
    (feedAll r ws).refused = true := by
  rw [feedAll_refused, h, Bool.true_or]

/-- Settles O5: the decoder rejects by the table, and a rejected word only marks the run. -/
theorem reservedWordsAreRefusedAndMarked : Obligations.ReservedWordsAreRefusedAndMarked := by
  intro w a c d write reason r
  have hiff : decode hw w = .error r ↔ reason = some r := by
    rw [← rejection_eq_some_iff, rejection_decode hw_inRange]
    exact Iff.rfl
  refine ⟨hiff, fun hreason => ?_⟩
  have herror := hiff.mpr hreason
  refine ⟨runWord_of_decode_error herror, fun u ws => ?_⟩
  rw [feed_of_decode_error herror]
  exact ⟨rfl, rfl, feedAll_refused_of_refused rfl ws⟩

/-! ### One word per family (R81), SHOW (R85) and lines of the assembler (R80 to R86) -/

/-- Settles O1: the words are written out, so the decoder computes. -/
theorem familyWordsDecode : Obligations.FamilyWordsDecode := by
  unfold Obligations.FamilyWordsDecode
  decide

theorem effect_enable_setval_comm (d : Word) (s : State) :
    effect .enable (effect (.setval d) s) = effect (.setval d) (effect .enable s) := rfl

/-- Settles O59: the two operations commute. -/
theorem showGivesTheSameStateInEitherOrder : Obligations.ShowGivesTheSameStateInEitherOrder := by
  intro s d
  refine ⟨effect .enable (effect (.setval d) s), ?_, ?_, rfl, rfl⟩
  · rw [runOps_cons rfl, runOps_cons rfl, runOps_nil]
  · rw [runOps_cons rfl, runOps_cons rfl, runOps_nil, effect_enable_setval_comm]

/-- Settles O60: the lines are written out, so the assembler computes. -/
theorem linesAssembleToTheirWords : Obligations.LinesAssembleToTheirWords := by
  unfold Obligations.LinesAssembleToTheirWords
  decide

end Sys2Proof.Machine

/-!
PROOF. The statements on the display engine (40_display.md): what a position shows and which positions are blanked, what a tick
strobes, the scan over a run, and the lemmas they rest on.
-/

namespace Sys2Proof.Machine

/-! ### Blanked positions and shown patterns (R111, R112) -/

/-- A value of at most four digits has none at position `i` or above exactly when it is below `10^i`. -/
theorem lt_pow_iff_no_digit_from {v : Nat} (hv : v ≤ 9999) (i : Fin 4) :
    v < 10 ^ i.val ↔ ∀ j : Fin 4, i ≤ j → v / 10 ^ j.val % 10 = 0 := by
  constructor
  · intro hlt j hij
    have hpow : 10 ^ i.val ≤ 10 ^ j.val := Nat.pow_le_pow_right (by decide) hij
    rw [Nat.div_eq_of_lt (hlt.trans_le hpow), Nat.zero_mod]
  · intro h
    have h0 : i.val ≤ 0 → v % 10 = 0 := fun hi => by simpa using h 0 hi
    have h1 : i.val ≤ 1 → v / 10 % 10 = 0 := h 1
    have h2 : i.val ≤ 2 → v / 100 % 10 = 0 := h 2
    have h3 : i.val ≤ 3 → v / 1000 % 10 = 0 := h 3
    match i with
    | 0 => exact show v < 1 by omega
    | 1 => exact show v < 10 by omega
    | 2 => exact show v < 100 by omega
    | 3 => exact show v < 1000 by omega

section value

variable {s : State} {v : Nat} (hv : v ≤ 9999) (hdigits : ∀ i, (digit s.digits i).val = v / 10 ^ i.val % 10)

include hv hdigits

/-- When the digits are those of a value, the blanked positions are the ones above its first digit (R112). -/
theorem blank_iff_lt_pow (p : Params) (i : Fin 4) :
    blank p s i = true ↔ p.blankPolicy = .leading ∧ 1 ≤ i.val ∧ v < 10 ^ i.val := by
  rw [blank_iff, lt_pow_iff_no_digit_from hv]
  simp only [← hdigits, Fin.val_eq_zero_iff]

theorem shown_eq_ite (p : Params) (i : Fin 4) :
    shown p s i =
      if p.blankPolicy = .leading ∧ 1 ≤ i.val ∧ v < 10 ^ i.val then 0#7 else p.segTable (decimalDigit v i.val) := by
  have hdigit : digit s.digits i = decimalDigit v i.val := Fin.ext (hdigits i)
  simp only [shown, blank_iff_lt_pow hv hdigits, hdigit]

end value

theorem shown_of_blank {p : Params} {s : State} {i : Fin 4} (h : blank p s i = true) : shown p s i = 0#7 := if_pos h

theorem shown_of_not_blank {p : Params} {s : State} {i : Fin 4} (h : blank p s i = false) :
    shown p s i = p.segTable (digit s.digits i) := if_neg (ne_true_of_eq_false h)

/-- Settles O41: in the invariant the digits are those of the displayed value. -/
theorem blankedPositionsAreTheLeadingZeros : Obligations.BlankedPositionsAreTheLeadingZeros := fun p s i =>
  ⟨blank_iff p s i, shown_of_blank, shown_of_not_blank, fun h => blank_iff_lt_pow h.value_le h.digits_eq p i⟩

/-! ### The scan over a run (R113, R114) -/

theorem scanPos_lt (s : State) : scanPos s < 28 := by
  unfold scanPos
  omega

theorem activeDigit_eq_scanPos (s : State) : s.activeDigit.val = scanPos s / 7 := by
  unfold scanPos
  omega

theorem activeSegment_eq_scanPos (s : State) : s.activeSegment.val = scanPos s % 7 := by
  unfold scanPos
  omega

theorem scanPos_eq_iff {s t : State} :
    scanPos t = scanPos s ↔ (t.activeDigit, t.activeSegment) = (s.activeDigit, s.activeSegment) := by
  rw [Prod.mk.injEq, Fin.ext_iff, Fin.ext_iff]
  unfold scanPos
  omega

/-- While enabled, a TICK moves the position on by one and no other operation but RESET moves it (40_display.md R110). -/
theorem scanPos_effect {i : Instr} (hi : i ≠ .reset) {s : State} (hon : s.enabled = true) :
    scanPos (effect i s) = (scanPos s + [i].count .tick) % 28 := by
  by_cases htick : i = .tick
  · subst htick
    exact scanPos_refreshTick hon
  · obtain ⟨hdigit, hsegment⟩ := effect_position ⟨hi, htick⟩ s
    have hpos : scanPos (effect i s) = scanPos s := by rw [scanPos, hdigit, hsegment, scanPos]
    rw [hpos, List.count_singleton, if_neg (by simpa using htick), Nat.add_zero, Nat.mod_eq_of_lt (scanPos_lt s)]

/-- The position after a run that leaves `enabled` alone (R113). -/
theorem scanPos_runOps {ops : List Instr} {s t : State} (hon : s.enabled = true)
    (hops : ∀ i ∈ ops, i ≠ .enable ∧ i ≠ .disable ∧ i ≠ .reset) (hrun : runOps ops s = .next t) :
    scanPos t = (scanPos s + ops.count .tick) % 28 := by
  induction ops generalizing s with
  | nil =>
    injection hrun with hst
    rw [← hst, List.count_nil, Nat.add_zero, Nat.mod_eq_of_lt (scanPos_lt s)]
  | cons i ops ih =>
    obtain ⟨⟨henable, hdisable, hreset⟩, hrest⟩ := List.forall_mem_cons.mp hops
    obtain ⟨hwf, -⟩ := runOps_cases hrun
    rw [runOps_cons (hwf i List.mem_cons_self)] at hrun
    have hon' : (effect i s).enabled = true := (effect_enabled ⟨hreset, henable, hdisable⟩ s).trans hon
    calc scanPos t
        = (scanPos (effect i s) + ops.count .tick) % 28 := ih hon' hrest hrun
      _ = (scanPos s + ([i].count .tick + ops.count .tick)) % 28 := by
        rw [scanPos_effect hreset hon, Nat.mod_add_mod, Nat.add_assoc]
      _ = (scanPos s + (i :: ops).count .tick) % 28 := by rw [← List.count_append, List.singleton_append]

/-- Settles O42: the position is one number modulo 28, and the number determines the pair. -/
theorem scanCycleIsTwentyEightTicks : Obligations.ScanCycleIsTwentyEightTicks := by
  intro ops s t hon hops hrun
  have hpos := scanPos_runOps hon hops hrun
  have hlt := scanPos_lt s
  refine ⟨hpos, fun hcount => ?_, fun hsome hfew => ?_⟩
  · rw [← scanPos_eq_iff]
    omega
  · rw [Ne, ← scanPos_eq_iff]
    omega

/-- `u` is disabled with its outputs 0, and its scan stands where that of `s` does. -/
def DarkAt (s u : State) : Prop :=
  u.enabled = false ∧ u.dig = 0 ∧ u.seg = 0 ∧ u.activeDigit = s.activeDigit ∧ u.activeSegment = s.activeSegment

theorem darkAt_disable (s : State) : DarkAt s (effect .disable s) := ⟨rfl, rfl, rfl, rfl, rfl⟩

/-- A disabled display stays dark and its scan stands still, whatever comes but ENABLE and RESET (R110, R114). -/
theorem DarkAt.effect {s u : State} (h : DarkAt s u) {i : Instr} (henable : i ≠ .enable) (hreset : i ≠ .reset) :
    DarkAt s (effect i u) := by
  obtain ⟨hoff, hdig, hseg, hpos⟩ := h
  by_cases htick : i = .tick
  · subst htick
    have hquiet : Machine.effect .tick u = quiet u := congrArg quiet (refreshTick_off hoff)
    rw [hquiet]
    exact ⟨hoff, hdig, hseg, hpos⟩
  obtain ⟨hdigit, hsegment⟩ := effect_position ⟨hreset, htick⟩ u
  rw [← hdigit, ← hsegment] at hpos
  by_cases hdisable : i = .disable
  · subst hdisable
    exact ⟨rfl, rfl, rfl, hpos⟩
  obtain ⟨hdig', hseg'⟩ := effect_outputs ⟨hreset, htick, hdisable⟩ u
  exact ⟨(effect_enabled ⟨hreset, henable, hdisable⟩ u).trans hoff, hdig'.trans hdig, hseg'.trans hseg, hpos⟩

/-- Settles O43: DISABLE makes the display dark, and every operation of the run keeps it so. -/
theorem blankingIsIdempotent : Obligations.BlankingIsIdempotent := by
  intro ops s hops
  have hrun := runOps_next (fun i hi => (hops i hi).1) (effect .disable s)
  obtain ⟨-, hdig, hseg, hdigit, hsegment⟩ := runOps_keeps (P := DarkAt s)
    (fun i hi u hu => hu.effect (hops i hi).2.1 (hops i hi).2.2) hrun (darkAt_disable s)
  exact ⟨_, (runOps_cons rfl ops s).trans hrun, hdig, hseg, hdigit, hsegment⟩

/-! ### What a tick strobes (R110, R115) -/

section strobe

variable {p : Params} {s : State}

theorem refreshTick_dig_getLsbD (h : s.enabled = true) (j : Fin 4) :
    (refreshTick p s).dig.getLsbD j = decide (j = s.activeDigit) := by
  rw [refreshTick_dig h, onehot4_getLsbD]

theorem refreshTick_seg_getLsbD (h : s.enabled = true) (j : Fin 7) :
    (refreshTick p s).seg.getLsbD j =
      (decide (j = s.activeSegment) && (shown p s s.activeDigit).getLsbD j) := by
  rw [refreshTick_seg h, BitVec.getLsbD_and, segMask_getLsbD, Bool.and_comm]

/-- A tick writes the outputs and the scan position only (R110). -/
theorem block_refreshTick (p : Params) (s : State) :
    (refreshTick p s).block = { s.block with
      dig := (refreshTick p s).dig, seg := (refreshTick p s).seg,
      activeSegment := (refreshTick p s).activeSegment, activeDigit := (refreshTick p s).activeDigit } := by
  ext1 <;> simp

end strobe

/-- Settles O18, by the lemmas on `refreshTick`. -/
theorem tickStrobesAndAdvances : Obligations.TickStrobesAndAdvances := by
  refine ⟨decode_encode hw_inRange (i := .tick) rfl, fun s => ⟨fun hoff => ?_, fun hon => ?_⟩⟩
  · refine ⟨_, exec_next rfl s, ?_⟩
    rw [effect, refreshTick_off hoff, block_quiet]
  · refine ⟨_, exec_next rfl s, refreshTick_dig_getLsbD hon, refreshTick_seg_getLsbD hon, ?_, ?_, block_refreshTick hw s⟩
    · have hsegment := activeSegment_eq_scanPos (refreshTick hw s)
      rw [scanPos_refreshTick hon, scanPos] at hsegment
      rw [effect, quiet_activeSegment]
      omega
    · have hdigit := activeDigit_eq_scanPos (refreshTick hw s)
      rw [scanPos_refreshTick hon, scanPos] at hdigit
      rw [effect, quiet_activeDigit]
      split <;> omega

/-- Settles O46: (b) sets the one line of the active digit, and the advance leaves the outputs. -/
theorem noTwoDigitLinesWithinATick : Obligations.NoTwoDigitLinesWithinATick := by
  intro p s
  refine ⟨rfl, fun i j hi hj => ?_, rfl, fun hon => ?_⟩
  · rw [strobeB_dig, onehot4_getLsbD, decide_eq_true_eq] at hi hj
    exact hi.trans hj.symm
  · rw [refreshTick_on hon]
    exact ⟨rfl, advanceScan_dig _, advanceScan_seg _⟩

/-- Settles O45: SETVAL leaves the outputs and the scan, and the next tick shows the digits it stored. -/
theorem nextTickShowsTheNewValue : Obligations.NextTickShowsTheNewValue := by
  intro s d hon
  have hon' : (effect (.setval d) s).enabled = true := hon
  have hshown := shown_eq_ite (s := effect (.setval d) s) (clampValue_le d) (digit_digitsOf _) hw s.activeDigit
  refine ⟨_, _, exec_next rfl s, exec_next rfl _, rfl, rfl, refreshTick_dig_getLsbD hon', fun j => ?_⟩
  have hseg := refreshTick_seg_getLsbD (p := hw) hon' j
  exact hseg.trans (congrArg (fun x : SegLines => decide (j = s.activeSegment) && x.getLsbD j) hshown)

/-! ### A cycle of ticks (R117) -/

/-- The state after `n` ticks. -/
def afterTicks (s : State) (n : Nat) : State := (effect .tick)^[n] s

theorem afterTicks_succ (s : State) (n : Nat) : afterTicks s (n + 1) = effect .tick (afterTicks s n) :=
  Function.iterate_succ_apply' _ n s

theorem runOps_replicate_tick (s : State) (n : Nat) : runOps (List.replicate n .tick) s = .next (afterTicks s n) := by
  induction n generalizing s with
  | zero => rfl
  | succ n ih => exact (runOps_cons rfl _ s).trans (ih (effect .tick s))

theorem afterTicks_digits (s : State) (n : Nat) : (afterTicks s n).digits = s.digits := by
  induction n with
  | zero => rfl
  | succ n ih => rw [afterTicks_succ, effect, quiet_digits, refreshTick_digits, ih]

theorem afterTicks_enabled (s : State) (n : Nat) : (afterTicks s n).enabled = s.enabled := by
  induction n with
  | zero => rfl
  | succ n ih => rw [afterTicks_succ, effect, quiet_enabled, refreshTick_enabled, ih]

section cycle

variable {s : State} (hon : s.enabled = true)

include hon

theorem scanPos_afterTicks (n : Nat) : scanPos (afterTicks s n) = (scanPos s + n) % 28 := by
  have hticks : ∀ i ∈ List.replicate n Instr.tick, i ≠ .enable ∧ i ≠ .disable ∧ i ≠ .reset := by
    intro i hi
    rw [List.eq_of_mem_replicate hi]
    decide
  rw [scanPos_runOps hon hticks (runOps_replicate_tick s n), List.count_replicate_self]

/-- Tick `n + 1` selects the digit of the position `n` ticks on. -/
theorem afterTicks_dig (n : Nat) (i : Fin 4) :
    (afterTicks s (n + 1)).dig.getLsbD i = decide (i.val = (scanPos s + n) % 28 / 7) := by
  have hon' := (afterTicks_enabled s n).trans hon
  rw [afterTicks_succ, effect, quiet_dig, refreshTick_dig_getLsbD hon', ← scanPos_afterTicks hon,
    ← activeDigit_eq_scanPos, decide_eq_decide]
  exact Fin.ext_iff

/-- Tick `n + 1` drives, of the digit it selects, the segment of the position `n` ticks on, if it is lit. -/
theorem afterTicks_seg (n : Nat) {i : Fin 4} (hi : (afterTicks s (n + 1)).dig.getLsbD i = true) (k : Fin 7) :
    (afterTicks s (n + 1)).seg.getLsbD k =
      (decide (k.val = (scanPos s + n) % 7) && (shown hw s i).getLsbD k) := by
  have hon' := (afterTicks_enabled s n).trans hon
  rw [afterTicks_succ, effect, quiet_dig, refreshTick_dig_getLsbD hon', decide_eq_true_eq] at hi
  rw [afterTicks_succ, effect, quiet_seg, refreshTick_seg_getLsbD hon', ← hi, shown_congr (afterTicks_digits s n),
    ← Nat.mod_mod_of_dvd _ (show 7 ∣ 28 by decide), ← scanPos_afterTicks hon, ← activeSegment_eq_scanPos]
  simp only [Fin.ext_iff]

/-- Tick `n + 1` drives segment `k` of digit `i` exactly when it is lit and the position `n` ticks on is theirs. -/
theorem afterTicks_dig_and_seg (n : Nat) (i : Fin 4) (k : Fin 7) :
    ((afterTicks s (n + 1)).dig.getLsbD i && (afterTicks s (n + 1)).seg.getLsbD k) =
      (decide ((scanPos s + n) % 28 = 7 * i.val + k.val) && (shown hw s i).getLsbD k) := by
  cases hdig : (afterTicks s (n + 1)).dig.getLsbD i with
  | false =>
    rw [afterTicks_dig hon, decide_eq_false_iff_not] at hdig
    rw [decide_eq_false (by omega), Bool.false_and, Bool.false_and]
  | true =>
    rw [afterTicks_seg hon n hdig, Bool.true_and]
    rw [afterTicks_dig hon, decide_eq_true_eq] at hdig
    congr 2
    rw [eq_iff_iff]
    omega

end cycle

/-- Over one period, what a periodic predicate counts does not depend on where the period begins. -/
theorem countP_range_shift {m : Nat} {q : Nat → Bool} (hq : ∀ n, q (m + n) = q n) (a : Nat) :
    (List.range m).countP (fun n => q (a + n)) = (List.range m).countP q := by
  have h : (List.range (a + m)).countP q = (List.range (m + a)).countP q := by rw [Nat.add_comm]
  simp only [List.range_add, List.countP_append, List.countP_map, Function.comp_def, hq] at h
  exact Nat.add_left_cancel (h.trans (Nat.add_comm _ _))

/-- Of 28 positions in turn, 7 are digit `i`'s. -/
theorem countP_digit_of_cycle (a : Nat) (i : Fin 4) :
    (List.range 28).countP (fun n => decide (i.val = (a + n) % 28 / 7)) = 7 := by
  rw [countP_range_shift (q := fun n => decide (i.val = n % 28 / 7)) (fun n => by simp)]
  revert i; decide

/-- Of 28 positions in turn, each comes once. -/
theorem countP_position_of_cycle (a : Nat) {c : Nat} (hc : c < 28) :
    (List.range 28).countP (fun n => decide ((a + n) % 28 = c)) = 1 := by
  rw [countP_range_shift (q := fun n => decide (n % 28 = c)) (fun n => by simp)]
  have hcount : (List.range 28).count c = 1 := List.count_eq_one_of_mem List.nodup_range (List.mem_range.mpr hc)
  rw [← hcount]
  refine List.countP_congr fun n hn => ?_
  rw [Nat.mod_eq_of_lt (List.mem_range.mp hn), decide_eq_true_eq, beq_iff_eq]

/-- Settles O44: tick `n + 1` strobes the position `n` ticks on, and a cycle has each position once. -/
theorem eachSegmentIsDrivenOncePerCycle : Obligations.EachSegmentIsDrivenOncePerCycle := by
  intro s hon
  refine ⟨afterTicks s, runOps_replicate_tick s,
    fun n i k => ⟨afterTicks_dig hon n i, fun hi => afterTicks_seg hon n hi k⟩, fun i => ?_, fun i k => ?_⟩
  · simp only [afterTicks_dig hon]
    exact countP_digit_of_cycle _ i
  · simp only [afterTicks_dig_and_seg hon]
    cases (shown hw s i).getLsbD k with
    | false => simp
    | true =>
      simp only [Bool.and_true]
      exact countP_position_of_cycle _ (by omega)

/-! ### The host's operations on the display (R100 to R106) -/

/-- Settles O11: the effect of ENABLE is the update the statement writes out. -/
theorem enableSetsOnlyEnabled : Obligations.EnableSetsOnlyEnabled :=
  ⟨decode_encode hw_inRange (i := .enable) rfl, fun s => ⟨_, exec_next rfl s, rfl⟩⟩

/-- Settles O12: the effect of DISABLE is the update the statement writes out. -/
theorem disableBlanksTheOutputs : Obligations.DisableBlanksTheOutputs :=
  ⟨decode_encode hw_inRange (i := .disable) rfl, fun s => ⟨_, exec_next rfl s, rfl⟩⟩

theorem regCtrl_toNat (s : State) : (regCtrl s).toNat = if s.enabled = true then 1 else 0 := by
  unfold regCtrl enabledBit
  split <;> rfl

/-- Settles O13, by the number CTRL reads as. -/
theorem readCtrlReturnsEnabled : Obligations.ReadCtrlReturnsEnabled :=
  ⟨decode_encode hw_inRange (i := .rdCtrl) rfl,
    fun s => ⟨_, _, exec_next rfl s, block_respond s _, rfl, regCtrl_toNat s⟩⟩

/-- Settles O14: the digits stored are those of the clamped value, which they sum to. -/
theorem setvalStoresTheClampedValueAndItsDigits : Obligations.SetvalStoresTheClampedValueAndItsDigits := by
  intro d
  have hword : 0x810000#24 ||| d.setWidth 24 = encode (.setval d) := (hostWriteWord_eq_or 1 d).symm
  rw [hword]
  exact ⟨decode_encode hw_inRange rfl, fun s =>
    ⟨_, exec_next rfl s, rfl, digit_digitsOf _, digitsOf_weightedSum (clampValue_le d), rfl⟩⟩

theorem regValue_toNat (s : State) : (regValue s).toNat = s.displayedValue % 2 ^ 16 := BitVec.toNat_ofNat _ _

/-- Settles O15: a value in the invariant's range fits the register. -/
theorem readValueReturnsDisplayedValue : Obligations.ReadValueReturnsDisplayedValue := by
  refine ⟨decode_encode hw_inRange (i := .rdValue) rfl,
    fun s => ⟨_, _, exec_next rfl s, block_respond s _, rfl, regValue_toNat s, fun h => ?_⟩⟩
  have hle := h.value_le
  rw [regValue_toNat]
  omega

/-- Each nibble of DIGITS is its digit (R105). -/
theorem regDigits_nibble (s : State) (i : Fin 4) :
    ((regDigits s).extractLsb' (4 * i.val) 4).toNat = (digit s.digits i).val := by
  rw [BitVec.extractLsb'_toNat, Nat.shiftRight_eq_div_pow, regDigits_toNat]
  match i with
  | 0 | 1 | 2 | 3 =>
    simp only [digit, Fin.coe_ofNat_eq_mod, Nat.reduceMod, Nat.reduceMul, Nat.reducePow]
    omega

/-- Settles O16: a nibble is its digit, and a digit is at most 9. -/
theorem readDigitsReturnsTheNibbles : Obligations.ReadDigitsReturnsTheNibbles := by
  refine ⟨decode_encode hw_inRange (i := .rdDigits) rfl,
    fun s => ⟨_, _, exec_next rfl s, block_respond s _, rfl, fun i => ?_⟩⟩
  rw [regDigits_nibble]
  exact ⟨rfl, by omega⟩

theorem regScan_segment (s : State) : ((regScan s).extractLsb' 0 3).toNat = s.activeSegment.val := by
  rw [BitVec.extractLsb'_toNat, Nat.shiftRight_eq_div_pow, regScan_toNat]
  omega

theorem regScan_digit (s : State) : ((regScan s).extractLsb' 4 2).toNat = s.activeDigit.val := by
  rw [BitVec.extractLsb'_toNat, Nat.shiftRight_eq_div_pow, regScan_toNat]
  omega

theorem regScan_bit3 (s : State) : (regScan s).getLsbD 3 = false := by
  rw [BitVec.getLsbD, Nat.testBit_eq_decide_div_mod_eq, regScan_toNat, decide_eq_false_iff_not]
  omega

/-- Settles O17: SCAN's fields are the position that the tick strobes. -/
theorem readScanReturnsThePosition : Obligations.ReadScanReturnsThePosition := by
  refine ⟨decode_encode hw_inRange (i := .rdScan) rfl, fun s =>
    ⟨effect .rdScan s, regScan s, exec_next rfl s, block_respond s _, rfl, regScan_segment s, regScan_digit s,
      regScan_bit3 s, ?_, ?_, fun hon => ⟨_, exec_next rfl _, ?_, fun j hj => ?_⟩⟩⟩
  · rw [regScan_toNat]
    omega
  · rw [regScan_segment]
    omega
  · have hon' : (effect .rdScan s).enabled = true := hon
    rw [regScan_digit]
    exact (refreshTick_dig_getLsbD hon' s.activeDigit).trans (decide_eq_true rfl)
  · have hon' : (effect .rdScan s).enabled = true := hon
    have hlt : j < 7 := BitVec.lt_of_getLsbD hj
    have hbit := (refreshTick_seg_getLsbD hon' ⟨j, hlt⟩).symm.trans hj
    rw [Bool.and_eq_true, decide_eq_true_eq] at hbit
    rw [regScan_segment]
    exact congrArg Fin.val hbit.1

end Sys2Proof.Machine

/-!
PROOF. The statements on the capture engine (41_capture.md): what each of its operations does, what a pulse measures over a run,
when the measured width changes, and the lemmas they rest on.
-/

namespace Sys2Proof.Machine

/-! ### The edges and the count (R130 to R132) -/

section edges

variable {s : State}

theorem effect_edgeR_armed (h : s.edgePhase = .armedRising) :
    effect .edgeR s = quiet (acceptEdge .armedFalling s) := congrArg quiet (risingEdge_armed h)

theorem effect_edgeR_ignored (h : s.edgePhase = .armedFalling) : effect .edgeR s = quiet s :=
  congrArg quiet (risingEdge_ignored h)

theorem effect_edgeF_armed (h : s.edgePhase = .armedFalling) :
    effect .edgeF s = quiet { acceptEdge .armedRising s with lastPulseWidth := pulseWidth hw s.ccnt } :=
  congrArg quiet (fallingEdge_armed h)

theorem effect_edgeF_ignored (h : s.edgePhase = .armedRising) : effect .edgeF s = quiet s :=
  congrArg quiet (fallingEdge_ignored h)

end edges

/-- Settles O19: an accepted edge is the update the statement writes out, an ignored one is none. -/
theorem risingEdgeStartsThePulse : Obligations.RisingEdgeStartsThePulse :=
  ⟨decode_encode hw_inRange (i := .edgeR) rfl, fun s => ⟨_, exec_next rfl s,
    fun h => congrArg State.block (effect_edgeR_armed h),
    fun h => (congrArg State.block (effect_edgeR_ignored h)).trans (block_quiet s)⟩⟩

/-- Settles O20, by the number that an accepted edge stores. -/
theorem fallingEdgeMeasuresThePulse : Obligations.FallingEdgeMeasuresThePulse := by
  refine ⟨decode_encode hw_inRange (i := .edgeF) rfl, fun s => ⟨_, exec_next rfl s, fun h => ?_, fun h => ?_⟩⟩
  · rw [effect_edgeF_armed h]
    exact ⟨pulseWidth_toNat hw_inRange s.ccnt, rfl⟩
  · rw [effect_edgeF_ignored h, block_quiet]

/-- Settles O21: the count is the one update of CTICK, in either phase. -/
theorem ctickCountsModuloTheWidth : Obligations.CtickCountsModuloTheWidth :=
  ⟨decode_encode hw_inRange (i := .ctick) rfl, fun s => ⟨_, exec_next rfl s, ccntInc_toNat hw_inRange s.ccnt, rfl⟩⟩

/-! ### The host's reads (R133, R134) -/

/-- Settles O22: a read of CAPW answers the width of any state, that of the reset state among them. -/
theorem readCapwReturnsTheWidth : Obligations.ReadCapwReturnsTheWidth :=
  ⟨decode_encode hw_inRange (i := .rdCapw) rfl, fun s => ⟨_, exec_next rfl s, block_respond s _, rfl⟩,
    _, exec_next rfl _, rfl⟩

theorem regCaps_toNat (s : State) : (regCaps s).toNat = if s.edgePhase = .armedFalling then 1 else 0 := by
  unfold regCaps edgePhaseBit
  cases s.edgePhase with
  | armedRising | armedFalling => rfl

/-- Settles O23, by the number CAPS reads as. -/
theorem readCapsReturnsThePhase : Obligations.ReadCapsReturnsThePhase :=
  ⟨decode_encode hw_inRange (i := .rdCaps) rfl,
    fun s => ⟨_, _, exec_next rfl s, block_respond s _, rfl, regCaps_toNat s⟩⟩

/-! ### What a pulse measures (R135 to R137) -/

/-- A pulse is under way and `n` counts have come since its rising edge. -/
def PulseCounted (n : Nat) (s : State) : Prop :=
  s.edgePhase = .armedFalling ∧ s.ccnt.toNat = n % 2 ^ hw.cntBits

theorem pulseCounted_edgeR {s : State} (h : s.edgePhase = .armedRising) : PulseCounted 0 (effect .edgeR s) := by
  rw [effect_edgeR_armed h]
  exact ⟨rfl, (Nat.zero_mod _).symm⟩

/-- Within a pulse a CTICK counts one and nothing else but its falling edge and RESET matters: a further rising edge is
ignored (R130, R132). -/
theorem PulseCounted.effect {n : Nat} {s : State} (h : PulseCounted n s) {i : Instr} (hedge : i ≠ .edgeF)
    (hreset : i ≠ .reset) : PulseCounted (n + [i].count .ctick) (effect i s) := by
  obtain ⟨hphase, hccnt⟩ := h
  by_cases hrising : i = .edgeR
  · subst hrising
    rw [effect_edgeR_ignored hphase]
    exact ⟨hphase, hccnt⟩
  have hphase' := (effect_edgePhase ⟨hreset, hrising, hedge⟩ s).trans hphase
  by_cases htick : i = .ctick
  · subst htick
    refine ⟨hphase', (ccntInc_toNat hw_inRange s.ccnt).trans ?_⟩
    rw [hccnt, Nat.mod_add_mod, List.count_singleton_self]
  · refine ⟨hphase', ?_⟩
    rw [effect_ccnt ⟨hreset, hrising, hedge, htick⟩, hccnt, List.count_singleton, if_neg (by simpa using htick),
      Nat.add_zero]

theorem PulseCounted.foldl {n : Nat} {s : State} (h : PulseCounted n s) {ops : List Instr}
    (hops : ∀ i ∈ ops, i ≠ .edgeF ∧ i ≠ .reset) :
    PulseCounted (n + ops.count .ctick) (ops.foldl (fun u i => Machine.effect i u) s) := by
  induction ops generalizing n s with
  | nil => exact h
  | cons i ops ih =>
    obtain ⟨⟨hedge, hreset⟩, hrest⟩ := List.forall_mem_cons.mp hops
    rw [← List.singleton_append, List.count_append, ← Nat.add_assoc]
    exact ih (h.effect hedge hreset) hrest

/-- The falling edge measures the counts since the rising edge and arms rising again (R131). -/
theorem PulseCounted.edgeF {n : Nat} {s : State} (h : PulseCounted n s) :
    (Machine.effect .edgeF s).edgePhase = .armedRising ∧
      ((Machine.effect .edgeF s).lastPulseWidth.toNat : Int) = ((n : Int) + hw.clockFudge) % (2 : Int) ^ hw.cntBits := by
  obtain ⟨hphase, hccnt⟩ := h
  rw [effect_edgeF_armed hphase]
  refine ⟨rfl, (pulseWidth_toNat hw_inRange s.ccnt).trans ?_⟩
  rw [hccnt, Int.natCast_mod, Nat.cast_pow, Nat.cast_ofNat, Int.emod_add_emod]

/-- A rising edge and the next falling edge that is not lost measure the counts between them, whatever else comes between but
RESET: further rising edges among it (R135, R136). -/
theorem pulse_measures_counts {ops : List Instr} {s t : State} (hs : s.edgePhase = .armedRising)
    (hops : ∀ i ∈ ops, i ≠ .edgeF ∧ i ≠ .reset) (hrun : runOps (.edgeR :: ops ++ [.edgeF]) s = .next t) :
    t.edgePhase = .armedRising ∧
      (t.lastPulseWidth.toNat : Int) = ((ops.count .ctick : Int) + hw.clockFudge) % (2 : Int) ^ hw.cntBits := by
  obtain ⟨-, rfl⟩ := runOps_cases hrun
  have hpulse := (pulseCounted_edgeR hs).foldl hops
  rw [Nat.zero_add] at hpulse
  rw [List.foldl_append]
  exact hpulse.edgeF

/-- A pulse of well-formed operations completes. -/
theorem runOps_pulse {ops : List Instr} (hwf : ∀ i ∈ ops, i.wellFormed hw = true) (s : State) :
    runOps (.edgeR :: ops ++ [.edgeF]) s =
      .next (effect .edgeF (ops.foldl (fun u i => effect i u) (effect .edgeR s))) := by
  have hwf' : ∀ i ∈ .edgeR :: ops ++ [.edgeF], i.wellFormed hw = true :=
    List.forall_mem_append.mpr ⟨List.forall_mem_cons.mpr ⟨rfl, hwf⟩, List.forall_mem_singleton.mpr rfl⟩
  rw [runOps_next hwf', List.foldl_append]
  rfl

/-- Settles O48: the width is that of the pulse's counts, and a sum in range is its own remainder. -/
theorem pulsePairMeasuresItsCounts : Obligations.PulsePairMeasuresItsCounts := by
  intro ops s t hs hops hrun
  obtain ⟨hphase, hwidth⟩ := pulse_measures_counts hs (fun i hi => (hops i hi).2) hrun
  exact ⟨hwidth, hphase, fun hnonneg hlt => hwidth.trans (Int.emod_eq_of_lt hnonneg hlt)⟩

/-- From 0 the counter shows the counts modulo `2^CNT_BITS` and no more (R132, R137). -/
theorem iterate_ccntInc_toNat {p : Params} (hp : p.InRange) (n : Nat) :
    ((ccntInc p)^[n] 0).toNat = n % 2 ^ p.cntBits := by
  induction n with
  | zero => exact (Nat.zero_mod _).symm
  | succ n ih => rw [Function.iterate_succ_apply', ccntInc_toNat hp, ih, Nat.mod_add_mod]

theorem iterate_ccntInc_add_two_pow {p : Params} (hp : p.InRange) (n : Nat) :
    (ccntInc p)^[n + 2 ^ p.cntBits] 0 = (ccntInc p)^[n] 0 := by
  apply BitVec.eq_of_toNat_eq
  rw [iterate_ccntInc_toNat hp, iterate_ccntInc_toNat hp, Nat.add_mod_right]

/-- Counts after a step that answered nothing leave all but the counter as it was. -/
theorem foldl_replicate_ctick (n : Nat) {s : State} (h : s.readResult = none) :
    (List.replicate n Instr.ctick).foldl (fun u i => effect i u) s = { s with ccnt := (ccntInc hw)^[n] s.ccnt } := by
  induction n generalizing s with
  | zero => rfl
  | succ n ih =>
    have hcount : effect .ctick s = { s with ccnt := ccntInc hw s.ccnt } :=
      State.ext rfl rfl rfl rfl rfl rfl rfl rfl rfl rfl rfl rfl rfl h.symm
    rw [List.replicate_succ, List.foldl_cons, ih rfl, hcount, Function.iterate_succ_apply]

/-- `2^CNT_BITS` counts more bring the counter back to where it was (R137). -/
theorem foldl_replicate_ctick_add_two_pow (m : Nat) {s : State} (hccnt : s.ccnt = 0) (h : s.readResult = none) :
    (List.replicate (m + 2 ^ hw.cntBits) Instr.ctick).foldl (fun u i => effect i u) s =
      (List.replicate m Instr.ctick).foldl (fun u i => effect i u) s := by
  rw [foldl_replicate_ctick _ h, foldl_replicate_ctick _ h, hccnt, iterate_ccntInc_add_two_pow hw_inRange]

/-- Settles O49: the counts of the two pulses leave the same state, which the falling edge measures. -/
theorem longPulseMeasuresModuloTheWidth : Obligations.LongPulseMeasuresModuloTheWidth := by
  intro s m hs
  have hwf : ∀ n, ∀ i ∈ List.replicate n Instr.ctick, i.wellFormed hw = true := fun n i hi =>
    List.eq_of_mem_replicate hi ▸ rfl
  have hops : ∀ i ∈ List.replicate (m + 2 ^ hw.cntBits) Instr.ctick, i ≠ .edgeF ∧ i ≠ .reset := fun i hi =>
    List.eq_of_mem_replicate hi ▸ by decide
  have hlong := runOps_pulse (hwf (m + 2 ^ hw.cntBits)) s
  obtain ⟨-, hwidth⟩ := pulse_measures_counts hs hops hlong
  rw [List.count_replicate_self] at hwidth
  refine ⟨_, hlong, ?_, hwidth⟩
  have hccnt : (effect .edgeR s).ccnt = 0 := by
    rw [effect_edgeR_armed hs]
    rfl
  rw [runOps_pulse (hwf m), foldl_replicate_ctick_add_two_pow m hccnt rfl]

/-- A list of operations that loses one falling edge has lost edges only (R136). -/
theorem losesOnlyEdges_edgeF (before after : List Instr) :
    LosesOnlyEdges (before ++ [.edgeF] ++ after) (before ++ after) :=
  ⟨(List.sublist_append_left before [.edgeF]).append_right after, by simp [agentOf]⟩

/-- Settles O50: without the falling edge the second rising edge is ignored, and the pulse goes on. -/
theorem lostFallingEdgeMeasuresAcross : Obligations.LostFallingEdgeMeasuresAcross := by
  intro high low high' s hs hops physical detected
  have hlost : LosesOnlyEdges physical detected := by
    have h := losesOnlyEdges_edgeF (.edgeR :: high) (low ++ [.edgeR] ++ high' ++ [.edgeF])
    simpa only [physical, detected, List.append_assoc] using h
  have hmid : ∀ i ∈ high ++ low ++ [.edgeR] ++ high', i.wellFormed hw = true ∧ i ≠ .edgeF ∧ i ≠ .reset := by
    intro i hi
    by_cases hR : i = .edgeR
    · subst hR
      exact ⟨rfl, by decide⟩
    · obtain ⟨hwf, -, hne⟩ := hops i (by simpa [hR] using hi)
      exact ⟨hwf, hne⟩
  have hrun := runOps_pulse (fun i hi => (hmid i hi).1) s
  obtain ⟨hphase, hwidth⟩ := pulse_measures_counts hs (fun i hi => (hmid i hi).2) hrun
  refine ⟨hlost, _, hrun, hphase, hwidth.trans ?_⟩
  simp

/-! ### When the phase and the width change (R136, R138) -/

theorem effect_edgePhase_ne_iff {i : Instr} (hreset : i ≠ .reset) (s : State) :
    (effect i s).edgePhase ≠ s.edgePhase ↔
      (i = .edgeR ∧ s.edgePhase = .armedRising) ∨ (i = .edgeF ∧ s.edgePhase = .armedFalling) := by
  by_cases hR : i = .edgeR
  · subst hR
    cases hphase : s.edgePhase with
    | armedRising => simp [effect_edgeR_armed hphase]
    | armedFalling => simp [effect_edgeR_ignored hphase, hphase]
  by_cases hF : i = .edgeF
  · subst hF
    cases hphase : s.edgePhase with
    | armedRising => simp [effect_edgeF_ignored hphase, hphase]
    | armedFalling => simp [effect_edgeF_armed hphase]
  · simp [effect_edgePhase ⟨hreset, hR, hF⟩, hR, hF]

/-- The width stands until a falling edge is accepted; a RESET leaves a width that is 0 already (R131, R230). -/
theorem effect_lastPulseWidth_of_no_capture {i : Instr} {s : State} (hedge : i = .edgeF → s.edgePhase = .armedRising)
    (hreset : i = .reset → s.lastPulseWidth = 0) : (effect i s).lastPulseWidth = s.lastPulseWidth := by
  by_cases hF : i = .edgeF
  · subst hF
    rw [effect_edgeF_ignored (hedge rfl), quiet_lastPulseWidth]
  by_cases hR : i = .reset
  · subst hR
    exact (hreset rfl).symm
  · exact effect_lastPulseWidth ⟨hR, hF⟩ s

/-- Settles O51: where no falling edge is accepted the width stands. -/
theorem acceptedEdgesAlternate : Obligations.AcceptedEdgesAlternate := by
  intro i s t hexec hreset
  obtain ⟨-, rfl⟩ := exec_cases hexec
  refine ⟨effect_edgePhase_ne_iff hreset s, fun hwidth => ?_⟩
  by_contra hnot
  refine hwidth (effect_lastPulseWidth_of_no_capture (fun hF => ?_) (fun hR => absurd hR hreset))
  cases hphase : s.edgePhase with
  | armedRising => rfl
  | armedFalling => exact absurd ⟨hF, hphase⟩ hnot

/-- Over a run that accepts no falling edge the width stands, if it is 0 where the run has a RESET (R138). -/
theorem foldl_lastPulseWidth {ops : List Instr} {s : State} (hwf : ∀ i ∈ ops, i.wellFormed hw = true)
    (hedges : AcceptsNoFallingEdge ops s) (hreset : .reset ∈ ops → s.lastPulseWidth = 0) :
    (ops.foldl (fun u i => effect i u) s).lastPulseWidth = s.lastPulseWidth := by
  induction ops generalizing s with
  | nil => rfl
  | cons i ops ih =>
    obtain ⟨hi, hops⟩ := List.forall_mem_cons.mp hwf
    obtain ⟨hedge, hrest⟩ := (acceptsNoFallingEdge_cons hi ops s).mp hedges
    have hstep : (effect i s).lastPulseWidth = s.lastPulseWidth :=
      effect_lastPulseWidth_of_no_capture hedge fun h => hreset (h ▸ List.mem_cons_self)
    exact (ih hops hrest fun h => hstep.trans (hreset (List.mem_cons_of_mem i h))).trans hstep

/-- A read of CAPW after a run of well-formed operations completes and answers the width the run leaves. -/
theorem runOps_rdCapw {ops : List Instr} (hwf : ∀ i ∈ ops, i.wellFormed hw = true) (s : State) :
    ∃ t, runOps (ops ++ [.rdCapw]) s = .next t ∧
      t.readResult = some (ops.foldl (fun u i => effect i u) s).lastPulseWidth := by
  have hwf' : ∀ i ∈ ops ++ [.rdCapw], i.wellFormed hw = true :=
    List.forall_mem_append.mpr ⟨hwf, List.forall_mem_singleton.mpr rfl⟩
  refine ⟨_, runOps_next hwf' s, ?_⟩
  rw [List.foldl_append]
  rfl

/-- Settles O52: without RESET the width stands from the start of the run, and with it from the first RESET. -/
theorem capwHoldsTheLastPulse : Obligations.CapwHoldsTheLastPulse := by
  intro ops s hwf
  refine ⟨fun hreset hedges => ?_, fun hedges => ?_⟩
  · have hwidth := foldl_lastPulseWidth hwf hedges fun h => absurd rfl (hreset .reset h)
    rw [← hwidth]
    exact runOps_rdCapw hwf s
  · obtain ⟨-, hrest⟩ := (acceptsNoFallingEdge_cons rfl ops s).mp hedges
    obtain ⟨t, hrun, hread⟩ := runOps_rdCapw hwf (effect .reset s)
    rw [foldl_lastPulseWidth hwf hrest fun _ => rfl] at hread
    exact ⟨t, (runOps_cons rfl _ s).trans hrun, hread⟩

end Sys2Proof.Machine

/-!
PROOF. The statements on the PWM driver (42_pwm.md): what each of its operations does, how the count goes on over a run, the
on-time of a period, and the lemmas they rest on.
-/

namespace Sys2Proof.Machine

/-! ### `PWMOUT` and the count (10_state.md R37, R152) -/

theorem pwmOut_eq_true_iff {s : State} : pwmOut s = true ↔ s.pwmCnt < s.pwmCmp.toNat := decide_eq_true_iff

theorem pwmOut_eq_false_iff {s : State} : pwmOut s = false ↔ s.pwmCmp.toNat ≤ s.pwmCnt :=
  decide_eq_false_iff_not.trans Nat.not_lt

theorem pwmCntInc_top (p : Params) : pwmCntInc p p.pwmTop = 0 := if_pos rfl

theorem pwmCntInc_of_ne_top {p : Params} {n : Nat} (h : n ≠ p.pwmTop) : pwmCntInc p n = n + 1 := if_neg h

/-! ### The count and `PWMOUT` over a run (R152, R153) -/

/-- From a count within the period a PTICK counts one, modulo the period, and no other operation but RESET moves it. -/
theorem pwmCnt_effect {i : Instr} (hi : i ≠ .reset) {s : State} (hs : s.pwmCnt ≤ hw.pwmTop) :
    (effect i s).pwmCnt = (s.pwmCnt + [i].count .ptick) % (hw.pwmTop + 1) := by
  by_cases hptick : i = .ptick
  · subst hptick
    exact pwmCntInc_eq_mod hs
  · rw [effect_pwmCnt ⟨hi, hptick⟩, List.count_singleton, if_neg (by simpa using hptick), Nat.add_zero,
      Nat.mod_eq_of_lt (Nat.lt_succ_of_le hs)]

/-- The count after a run with no RESET, SETPWM among it or not (R152). -/
theorem pwmCnt_runOps {ops : List Instr} {s t : State} (hs : s.pwmCnt ≤ hw.pwmTop) (hops : ∀ i ∈ ops, i ≠ .reset)
    (hrun : runOps ops s = .next t) : t.pwmCnt = (s.pwmCnt + ops.count .ptick) % (hw.pwmTop + 1) := by
  induction ops generalizing s with
  | nil =>
    injection hrun with hst
    rw [← hst, List.count_nil, Nat.add_zero, Nat.mod_eq_of_lt (Nat.lt_succ_of_le hs)]
  | cons i ops ih =>
    obtain ⟨hi, hrest⟩ := List.forall_mem_cons.mp hops
    obtain ⟨hwf, -⟩ := runOps_cases hrun
    rw [runOps_cons (hwf i List.mem_cons_self)] at hrun
    have hcnt := pwmCnt_effect hi hs
    have hle : (effect i s).pwmCnt ≤ hw.pwmTop := hcnt ▸ Nat.le_of_lt_succ (Nat.mod_lt _ (Nat.succ_pos _))
    calc t.pwmCnt
        = ((effect i s).pwmCnt + ops.count .ptick) % (hw.pwmTop + 1) := ih hle hrest hrun
      _ = (s.pwmCnt + ([i].count .ptick + ops.count .ptick)) % (hw.pwmTop + 1) := by
        rw [hcnt, Nat.mod_add_mod, Nat.add_assoc]
      _ = (s.pwmCnt + (i :: ops).count .ptick) % (hw.pwmTop + 1) := by rw [← List.count_append, List.singleton_append]

/-- Without SETPWM the compare value stands, so `PWMOUT` compares the count with the one before the run. -/
theorem pwmOut_runOps {ops : List Instr} {s t : State} (hs : s.pwmCnt ≤ hw.pwmTop)
    (hops : ∀ i ∈ ops, i ≠ .reset ∧ ∀ d, i ≠ .setpwm d) (hrun : runOps ops s = .next t) :
    pwmOut t = decide ((s.pwmCnt + ops.count .ptick) % (hw.pwmTop + 1) < s.pwmCmp.toNat) := by
  have hcmp : t.pwmCmp = s.pwmCmp := runOps_keeps_field hrun fun i hi => effect_pwmCmp (hops i hi)
  rw [pwmOut, pwmCnt_runOps hs (fun i hi => (hops i hi).1) hrun, hcmp]

/-- Settles O54: the count of the run and, where the compare value stands, `PWMOUT` of the run. -/
theorem pwmPeriodIsTopPlusOne : Obligations.PwmPeriodIsTopPlusOne := fun _ops _s _t hs hreset hrun =>
  ⟨pwmCnt_runOps hs hreset hrun, fun hsetpwm => pwmOut_runOps hs (fun i hi => ⟨hreset i hi, hsetpwm i hi⟩) hrun⟩

/-! ### The on-time of a period (R153) -/

/-- A well-formed operation done `n` times is its effect iterated. -/
theorem runOps_replicate {i : Instr} (h : i.wellFormed hw = true) (n : Nat) (s : State) :
    runOps (List.replicate n i) s = .next ((effect i)^[n] s) := by
  induction n generalizing s with
  | zero => rfl
  | succ n ih => exact (runOps_cons h _ s).trans (ih (effect i s))

/-- From count 0, the count and `PWMOUT` after `n` PTICKs. -/
theorem pwm_after_pticks {s : State} (hs : s.pwmCnt = 0) (n : Nat) :
    ((effect .ptick)^[n] s).pwmCnt = n % (hw.pwmTop + 1) ∧
      pwmOut ((effect .ptick)^[n] s) = decide (n % (hw.pwmTop + 1) < s.pwmCmp.toNat) := by
  have hle : s.pwmCnt ≤ hw.pwmTop := hs ▸ Nat.zero_le _
  have hops : ∀ i ∈ List.replicate n Instr.ptick, i ≠ .reset ∧ ∀ d, i ≠ .setpwm d := fun i hi =>
    List.eq_of_mem_replicate hi ▸ ⟨nofun, nofun⟩
  have hrun := runOps_replicate (i := .ptick) rfl n s
  have hcnt := pwmCnt_runOps hle (fun i hi => (hops i hi).1) hrun
  have hout := pwmOut_runOps hle hops hrun
  rw [hs, List.count_replicate_self, Nat.zero_add] at hcnt hout
  exact ⟨hcnt, hout⟩

/-- Of the first `m` numbers, `min k m` are below `k`. -/
theorem countP_range_lt (m k : Nat) : (List.range m).countP (fun n => decide (n < k)) = min k m := by
  induction m with
  | zero => exact (Nat.min_zero k).symm
  | succ m ih =>
    rw [List.range_succ, List.countP_append, ih, List.countP_singleton]
    simp only [decide_eq_true_eq]
    split <;> omega

/-- Settles O53: within the period the count is the number of PTICKs, and it is below the compare value that often. -/
theorem onTimeIsTheCompareValue : Obligations.OnTimeIsTheCompareValue := by
  intro s hs
  have hout : ∀ n ≤ hw.pwmTop, pwmOut ((effect .ptick)^[n] s) = decide (n < s.pwmCmp.toNat) := fun n hn => by
    rw [(pwm_after_pticks hs n).2, Nat.mod_eq_of_lt (Nat.lt_succ_of_le hn)]
  refine ⟨fun n => (effect .ptick)^[n] s, fun n => runOps_replicate rfl n s, fun n hn => ?_, ?_, ?_⟩
  · rw [hout n hn, decide_eq_true_eq, lt_min_iff, and_iff_left (Nat.lt_succ_of_le hn)]
  · rw [← countP_range_lt]
    refine List.countP_congr fun n hn => ?_
    rw [hout n (Nat.le_of_lt_succ (List.mem_range.mp hn))]
  · exact (pwm_after_pticks hs _).1.trans (Nat.mod_self _)

/-! ### The compare register (R150, R151, R154) -/

theorem setpwm_wellFormed_iff {p : Params} {d : Word} :
    Instr.wellFormed p (.setpwm d) = true ↔ d.toNat < 2 ^ p.pwmBits := decide_eq_true_iff

/-- Settles O24: the word is the encoding of the operation, which exists for an operand that fits. -/
theorem setpwmWritesTheCompareRegister : Obligations.SetpwmWritesTheCompareRegister := by
  intro d
  have hword : 0x860000#24 ||| d.setWidth 24 = encode (.setpwm d) := (hostWriteWord_eq_or 6 d).symm
  rw [hword]
  refine ⟨fun hd => ?_, fun p hp hd => ?_, fun s => ⟨fun ⟨t, ht⟩ => ?_, fun hd => ?_⟩⟩
  · have hwf := setpwm_wellFormed_iff.mpr hd
    exact ⟨decode_encode hw_inRange hwf, fun s => ⟨_, exec_next hwf s, rfl, rfl⟩⟩
  · exact decode_encode_of_not_wellFormed hp fun hwf => Nat.not_le.mpr (setpwm_wellFormed_iff.mp hwf) hd
  · exact setpwm_wellFormed_iff.mp (exec_cases ht).1
  · exact ⟨_, exec_next (setpwm_wellFormed_iff.mpr hd) s⟩

/-- Settles O55: SETPWM leaves the count, which `PWMOUT` compares with the operand from then on. -/
theorem compareWriteTakesEffectAtOnce : Obligations.CompareWriteTakesEffectAtOnce := by
  intro s d hd
  have hexec := exec_next (setpwm_wellFormed_iff.mpr hd) s
  refine ⟨fun hlow hnew => ?_, fun hhigh hnew => ?_⟩
  · exact ⟨pwmOut_eq_false_iff.mpr hlow, _, hexec, pwmOut_eq_true_iff.mpr hnew, rfl⟩
  · exact ⟨pwmOut_eq_true_iff.mpr hhigh, _, hexec, pwmOut_eq_false_iff.mpr hnew, rfl⟩

/-- Settles O25: a compare value in the invariant's range has no bit from `PWM_BITS` on. -/
theorem readPwmcReturnsTheCompareRegister : Obligations.ReadPwmcReturnsTheCompareRegister := by
  refine ⟨decode_encode hw_inRange (i := .rdPwmc) rfl,
    fun s => ⟨_, exec_next rfl s, block_respond s _, rfl, fun hinv j hj => ?_⟩, _, exec_next rfl _, rfl⟩
  exact Nat.testBit_lt_two_pow (hinv.cmp_lt.trans_le (Nat.pow_le_pow_right (by decide) hj))

/-! ### PTICK (R152) -/

/-- Settles O26: the new count is that of `pwmCntInc`, and the compare value stands. -/
theorem ptickCountsAndWrapsAtTop : Obligations.PtickCountsAndWrapsAtTop := by
  refine ⟨decode_encode hw_inRange (i := .ptick) rfl, fun s =>
    ⟨_, exec_next rfl s, fun htop => ?_, pwmCntInc_of_ne_top, pwmCntInc_le, pwmOut_eq_true_iff, rfl⟩⟩
  exact (congrArg (pwmCntInc hw) htop).trans (pwmCntInc_top hw)

end Sys2Proof.Machine

/-!
PROOF. The statements on exceptions (60_exceptions.md): that every sequence of operations completes, and that the host's steps
move nothing an interrupt owns.
-/

namespace Sys2Proof.Machine

/-- Settles O10: the run answers the fold of its operations' effects. -/
theorem noOperationCanFail : Obligations.NoOperationCanFail := fun _ops s hwf => ⟨_, runOps_next hwf s⟩

/-- Settles O35: every operation that may write one of these fields is another agent's. -/
theorem hostCannotMoveTheInterruptOwnedFields : Obligations.HostCannotMoveTheInterruptOwnedFields := by
  intro ops s t hhost hrun
  have hne : ∀ j, agentOf j ≠ .host → ∀ i ∈ ops, i ≠ j := fun j hj i hi =>
    ne_of_apply_ne agentOf ((hhost i hi).trans_ne hj.symm)
  have hreset := hne .reset (by decide)
  have htick := hne .tick (by decide)
  have hctick := hne .ctick (by decide)
  have hptick := hne .ptick (by decide)
  have hedgeR := hne .edgeR (by decide)
  have hedgeF := hne .edgeF (by decide)
  obtain ⟨-, -, hposition, -⟩ := displayFieldsHaveOnlyTheirWriters ops s t hrun
  obtain ⟨hphase, hwidth, hccnt, -, hpwmCnt⟩ := captureAndPwmFieldsHaveOnlyTheirWriters ops s t hrun
  obtain ⟨hdigit, hsegment⟩ := hposition fun i hi => ⟨hreset i hi, htick i hi⟩
  exact ⟨hdigit, hsegment, hwidth fun i hi => ⟨hreset i hi, hedgeF i hi⟩,
    hphase fun i hi => ⟨hreset i hi, hedgeR i hi, hedgeF i hi⟩,
    hccnt fun i hi => ⟨hreset i hi, hedgeR i hi, hedgeF i hi, hctick i hi⟩,
    hpwmCnt fun i hi => ⟨hreset i hi, hptick i hi⟩⟩

end Sys2Proof.Machine

/-!
PROOF. The statements on reset and hazards (70_reset_and_hazards.md): what RESET leaves, from any state and after any run, and
what a host read finds right after a host write.
-/

namespace Sys2Proof.Machine

/-! ### RESET (R230, R232) -/

@[simp] theorem block_effect_reset (s : State) : (effect .reset s).block = State.reset := block_resetBlock s

theorem pwmOut_effect_reset (s : State) : pwmOut (effect .reset s) = false := pwmOut_eq_false_iff.mpr (Nat.le_refl 0)

/-- RESET keeps only the step words still to arrive, so a second one finds nothing to change. -/
theorem effect_reset_reset (s : State) : effect .reset (effect .reset s) = effect .reset s := rfl

/-- A well-formed operation after a run of well-formed ones completes, on the state the run leaves. -/
theorem runOps_concat {ops : List Instr} (hops : ∀ i ∈ ops, i.wellFormed hw = true) {i : Instr}
    (hi : i.wellFormed hw = true) (s : State) :
    runOps (ops ++ [i]) s = .next (effect i (ops.foldl (fun u j => effect j u) s)) := by
  rw [runOps_next (List.forall_mem_append.mpr ⟨hops, List.forall_mem_singleton.mpr hi⟩), List.foldl_concat]

/-- Settles O40: the run completes, and the RESET after it leaves the reset block whatever state it finds. -/
theorem resetDiscardsEveryRun : Obligations.ResetDiscardsEveryRun := fun _ops s hops =>
  ⟨_, runOps_concat hops rfl s, block_effect_reset _⟩

/-- Settles O27: the word is the encoding of RESET, so a run takes its effect and keeps the mark. -/
theorem resetOperationGivesTheResetState : Obligations.ResetOperationGivesTheResetState := by
  have hword : 0x140000#24 = encode .reset := rfl
  rw [Obligations.ResetOperationGivesTheResetState, hword]
  refine ⟨decode_encode hw_inRange rfl, fun s => ⟨effect .reset s, exec_next rfl s, ?_, ?_, ?_⟩, fun r => ?_⟩
  · exact block_effect_reset s
  · exact pwmOut_effect_reset s
  · rw [exec_next rfl, effect_reset_reset]
  · rw [feed_encode rfl]

/-! ### A read right after a write (R237) -/

section written

variable (d : Word) (s : State)

theorem regValue_effect_setval : regValue (effect (.setval d) s) = BitVec.ofNat 16 (min d.toNat 9999) := rfl

theorem regCtrl_effect_enable : regCtrl (effect .enable s) = 1 := rfl

theorem regCtrl_effect_disable : regCtrl (effect .disable s) = 0 := rfl

theorem regPwmc_effect_setpwm : regPwmc (effect (.setpwm d) s) = d := rfl

end written

/-- An operation and, right after it, the read of a register: the result is the register as the operation leaves it. -/
theorem runOps_write_read {write read : Instr} {reg : State → Word} {v : Word} {s : State}
    (hwrite : write.wellFormed hw = true) (hread : read.wellFormed hw = true)
    (hreg : ∀ u, effect read u = respond (reg u) u) (hv : reg (effect write s) = v) :
    ∃ t, runOps [write, read] s = .next t ∧ t.readResult = some v := by
  refine ⟨effect read (effect write s), ?_, ?_⟩
  · rw [runOps_cons hwrite, runOps_cons hread, runOps_nil]
  · rw [hreg, hv, respond_readResult]

/-- Settles O39: each register holds what its write leaves in it, the clamped value in VALUE. -/
theorem readRightAfterWriteReturnsTheEffect : Obligations.ReadRightAfterWriteReturnsTheEffect := fun s d =>
  ⟨runOps_write_read rfl rfl (fun _ => rfl) (regValue_effect_setval d s),
    runOps_write_read rfl rfl (fun _ => rfl) (regCtrl_effect_enable s),
    runOps_write_read rfl rfl (fun _ => rfl) (regCtrl_effect_disable s),
    fun hd => runOps_write_read (setpwm_wellFormed_iff.mpr hd) rfl (fun _ => rfl) (regPwmc_effect_setpwm d s)⟩

end Sys2Proof.Machine

/-!
PROOF. The statements on the model's own two fields and on a step with no input (notes/assumptions/4.md, 5.md, 6.md), and the
lemmas they rest on: what a step does with no word waiting, and which operations leave a result.
-/

namespace Sys2Proof.Machine

/-! ### A step with no input -/

theorem step_of_inputs_nil {s : State} (h : s.inputs = []) : step s = .next s := by
  simp only [step, fetch, h]

/-- Settles O8, from what a step does with no word waiting. -/
theorem stepWithNoInputLeavesTheState : Obligations.StepWithNoInputLeavesTheState := fun _s h => step_of_inputs_nil h

/-! ### Which operations leave a result -/

/-- Every operation that is no host read is quiet (00_scope.md R17). -/
theorem effect_readResult_of_not_isRead {i : Instr} (h : ¬isRead i = true) (s : State) :
    (effect i s).readResult = none := by
  cases i with
  | rdCtrl | rdValue | rdDigits | rdScan | rdCapw | rdCaps | rdPwmc => exact absurd rfl h
  | enable | disable | setval | setpwm | tick | ctick | ptick | edgeR | edgeF | reset => rfl

theorem effect_readResult_isSome_iff (i : Instr) (s : State) :
    (effect i s).readResult.isSome = true ↔ isRead i = true := by
  by_cases hread : isRead i = true
  · obtain ⟨v, hv⟩ := effect_of_isRead hread s
    simp [hv, hread]
  · simp [effect_readResult_of_not_isRead hread s, hread]

/-- Settles O29: an operation that completes takes its effect, which keeps the inputs and answers a read only. -/
theorem onlyReadsAnswerAndNoneTouchesTheInputs : Obligations.OnlyReadsAnswerAndNoneTouchesTheInputs := by
  intro i s t h
  obtain ⟨-, rfl⟩ := exec_cases h
  exact ⟨effect_inputs i s, effect_readResult_isSome_iff i s⟩

end Sys2Proof.Machine
